-- ==== Sys2Proof/Word.lean ====
section
/-! DEFINITION. The block's word types (00_scope R11: a byte is 8 bits, every value is unsigned). -/

namespace Sys2Proof

/-- One character of the wire, one byte of `BUF`, one operand. -/
abbrev Byte := BitVec 8

/-- The CRC and the result register. -/
abbrev Word := BitVec 16

end Sys2Proof
end

