-- ==== Sys2Proof/Config.lean ====
section
/-! DEFINITION. The parameters of the block (00_scope R5 to R10) and the free values of the model. -/

namespace Sys2Proof

/-- `CRC_BYTE_ORDER` (R8): which byte of the CRC lies at the lower index. -/
inductive ByteOrder where
  | le
  | be
  deriving DecidableEq, Repr

/-- Which `CRC16_UPDATE` an instance has (R7, R181): the default step of R183, or the `k`-th of an uninterpreted
supply of total functions, of which nothing is known (log 3). -/
inductive CrcFn where
  | arc
  | external (k : Nat)
  deriving DecidableEq, Repr

/-- The parameters of one instance of the block (R5 to R9). No step changes them (R39; log 1). -/
structure Params where
  /-- `END` -/
  endC : Byte
  /-- `ESC` -/
  escC : Byte
  /-- `ESC_END` -/
  escEnd : Byte
  /-- `ESC_ESC` -/
  escEsc : Byte
  /-- `CRC16_UPDATE` -/
  crcFn : CrcFn
  /-- `CRC_BYTE_ORDER` -/
  order : ByteOrder
  /-- `BUF_SIZE`, 0 to 255 (R9) -/
  bufSize : Fin 256
  deriving DecidableEq, Repr

/-- R6: the four inequalities. An instance that breaks one is refused (`BadConstants`). -/
def Params.ok (p : Params) : Bool :=
  p.endC != p.escC && p.escEnd != p.endC && p.escEsc != p.endC && p.escEnd != p.escEsc

/-- The defaults of 00_scope section 3. PRESUMED (logs 2 and 3: general knowledge), DESIGN CHOICE (logs 4 and 5). -/
def Params.default : Params where
  endC := 0xC0
  escC := 0xDB
  escEnd := 0xDC
  escEsc := 0xDD
  crcFn := .arc
  order := .le
  bufSize := 255

/-- FREE VALUE (log 3): the uninterpreted `CRC16_UPDATE` functions of R181. -/
opaque Config.crc16External : Nat → Word → Byte → Word

/-- FREE VALUE (log 9): the transport's answer to the `n`-th free receive poll (R61, U6). -/
opaque Config.rxAvail : Nat → Bool

/-- FREE VALUE (logs 8 and 16): unspecified register contents, and what a read of `GO` returns (R26, R280). -/
opaque Config.freeWord : Nat → Word

end Sys2Proof
end

