-- ==== Sys2Proof/Syntax.lean ====
section
/-! DEFINITION. The rows of spec/opcode_table.json, one constructor each (30_encoding R95). -/

namespace Sys2Proof

/-- The decoder's mode (10_state R29). -/
inductive Mode where
  | normal
  | escaped
  deriving DecidableEq, Repr

/-- One constructor per row of the opcode table. -/
inductive Instr where
  /-- `DECODE` (R130): `len` = capacity; `off` ignored -/
  | decode (len off : Byte)
  /-- `ENCODE` (R160): `len` = length; `off` ignored -/
  | encode (len off : Byte)
  /-- `VERIFY` (R190): `len` = total length, `off` = CRC offset -/
  | verify (len off : Byte)
  /-- `APPEND` (R210): `len` = data length; `off` ignored -/
  | append (len off : Byte)
  /-- `RESERVED` (R90): `OP` 4 to 7 -/
  | reserved (op : BitVec 3) (len off : Byte)
  /-- `RX_END` (R112): `END` received in NORMAL -/
  | rxEnd
  /-- `RX_ESC` (R111): `ESC` received in NORMAL -/
  | rxEsc
  /-- `RX_DATA` (R130): any other character received in NORMAL -/
  | rxData (c : Byte)
  /-- `RX_XL_END` (R114): `ESC_END` received in ESCAPED -/
  | rxXlEnd
  /-- `RX_XL_ESC` (R114): `ESC_ESC` received in ESCAPED -/
  | rxXlEsc
  /-- `RX_XL_OTHER` (R114): any other character received in ESCAPED -/
  | rxXlOther (c : Byte)
  /-- `TX_ESCAPE_END` (R81): payload byte `END` -/
  | txEscapeEnd
  /-- `TX_ESCAPE_ESC` (R81): payload byte `ESC` -/
  | txEscapeEsc
  /-- `TX_DATA` (R81): any other payload byte -/
  | txData (b : Byte)
  /-- `TX_DELIMITER` (R160): the leading and the trailing `END` -/
  | txDelimiter
  /-- `CRCCLR` (R184) -/
  | crcclr
  /-- `CRCUPD` (R185) -/
  | crcupd (b : Byte)
  /-- `CLASSIFY` (R111) -/
  | classify (c : Byte)
  /-- `BOUNDARY` (R112) -/
  | boundary (c : Byte)
  /-- `XLATE` (R114) -/
  | xlate (c : Byte)
  /-- `GO` (R230): the host's write of any value to register 3 -/
  | go
  deriving DecidableEq, Repr

end Sys2Proof
end

