-- ==== Sys2Proof/WellFormed.lean ====
section
/-! DEFINITION. Which instructions stand for a row under given parameters. The catch-all rows of the table are tested
last (R95, `priority`), so their character is none that an earlier row of the same stream takes. -/

namespace Sys2Proof

/-- A well-formed instruction under the parameters `p`: a reserved code has bit 2 set (R90), a catch-all row holds no
character of an earlier row (R81, R82). -/
def Instr.wf (p : Params) : Instr → Bool
  | .decode _ _ => true
  | .encode _ _ => true
  | .verify _ _ => true
  | .append _ _ => true
  | .reserved op _ _ => op.getLsbD 2
  | .rxEnd => true
  | .rxEsc => true
  | .rxData c => c != p.endC && c != p.escC
  | .rxXlEnd => true
  | .rxXlEsc => true
  | .rxXlOther c => c != p.escEnd && c != p.escEsc
  | .txEscapeEnd => true
  | .txEscapeEsc => true
  | .txData b => b != p.endC && b != p.escC
  | .txDelimiter => true
  | .crcclr => true
  | .crcupd _ => true
  | .classify _ => true
  | .boundary _ => true
  | .xlate _ => true
  | .go => true

end Sys2Proof
end

