-- ==== Sys2Proof/Decode.lean ====
section
/-! DEFINITION. Decoding and encoding (30_encoding R81, R82, R87, R88, R90, R95). The rows of the opcode table lie in four
streams with codes of their own; a code is read in its stream. -/

namespace Sys2Proof

/-- Where a code is read: the command registers, the receive side in a mode, the payload the encoder reads, the host
port's register number. -/
inductive Stream where
  | command
  | receive (m : Mode)
  | transmit
  | hostRegister
  deriving DecidableEq, Repr

/-- Why bytes are no instruction of a stream. -/
inductive DecodeError where
  /-- the number of bytes is not the format's (3 for a command word, 1 elsewhere) -/
  | wrongLength
  /-- a command word has a bit set above bit 18 (R87: 19 bits) -/
  | commandTooWide
  /-- a host register number that is not `GO`'s: a plain register access, no row of the table -/
  | notGo
  deriving DecidableEq, Repr

/-- R88, R90: the operation `OP` selects, with the operands of the command word. -/
def decodeCommand (op : BitVec 3) (len off : Byte) : Instr :=
  match op.toNat with
  | 0 => .decode len off
  | 1 => .encode len off
  | 2 => .verify len off
  | 3 => .append len off
  | _ => .reserved op len off

/-- R82: the row a received character is, tests in the listed order. -/
def decodeReceived (p : Params) (m : Mode) (c : Byte) : Instr :=
  match m with
  | .normal => if c = p.endC then .rxEnd else if c = p.escC then .rxEsc else .rxData c
  | .escaped => if c = p.escEnd then .rxXlEnd else if c = p.escEsc then .rxXlEsc else .rxXlOther c

/-- R81: the row a payload byte is. -/
def decodePayload (p : Params) (b : Byte) : Instr :=
  if b = p.endC then .txEscapeEnd else if b = p.escC then .txEscapeEsc else .txData b

/-- The decoder: total on any bytes of any stream. A command word is three bytes, lowest first (log 19). -/
def decode (p : Params) (st : Stream) (bytes : List Byte) : Except DecodeError Instr :=
  match st, bytes with
  | .command, [off, len, top] =>
    if top.toNat < 8 then .ok (decodeCommand (top.setWidth 3) len off) else .error .commandTooWide
  | .receive m, [c] => .ok (decodeReceived p m c)
  | .transmit, [b] => .ok (decodePayload p b)
  | .hostRegister, [r] => if r = 3 then .ok .go else .error .notGo
  | _, _ => .error .wrongLength

/-- R87: the three bytes of the command word {op, len, off}. -/
def encodeCommand (op : BitVec 3) (len off : Byte) : Stream × List Byte :=
  (.command, [off, len, op.setWidth 8])

/-- The code of an instruction, where it has one: the table gives `TX_DELIMITER` and the MICRO rows none (R91, R95). -/
def encode (p : Params) : Instr → Option (Stream × List Byte)
  | .decode len off => some (encodeCommand 0 len off)
  | .encode len off => some (encodeCommand 1 len off)
  | .verify len off => some (encodeCommand 2 len off)
  | .append len off => some (encodeCommand 3 len off)
  | .reserved op len off => some (encodeCommand op len off)
  | .rxEnd => some (.receive .normal, [p.endC])
  | .rxEsc => some (.receive .normal, [p.escC])
  | .rxData c => some (.receive .normal, [c])
  | .rxXlEnd => some (.receive .escaped, [p.escEnd])
  | .rxXlEsc => some (.receive .escaped, [p.escEsc])
  | .rxXlOther c => some (.receive .escaped, [c])
  | .txEscapeEnd => some (.transmit, [p.endC])
  | .txEscapeEsc => some (.transmit, [p.escC])
  | .txData b => some (.transmit, [b])
  | .txDelimiter => none
  | .crcclr => none
  | .crcupd _ => none
  | .classify _ => none
  | .boundary _ => none
  | .xlate _ => none
  | .go => some (.hostRegister, [3])

/-- R81, the `emit` column: the wire characters a payload byte is sent as. -/
def wireOf (p : Params) (b : Byte) : List Byte :=
  if b = p.endC then [p.escC, p.escEnd] else if b = p.escC then [p.escC, p.escEsc] else [b]

/-- R80: a frame on the wire. -/
def wireFrame (p : Params) (payload : List Byte) : List Byte :=
  p.endC :: payload.flatMap (wireOf p) ++ [p.endC]

/-- The stream in which a one-byte word of the table is read (log 18): the one of the first row of the table whose fixed
bits the word matches; a word no fixed row matches is read as received in NORMAL. -/
def tableByteStream (p : Params) (c : Byte) : Stream :=
  if c = p.endC then .receive .normal
  else if c = p.escC then .receive .normal
  else if c = p.escEnd then .receive .escaped
  else if c = p.escEsc then .receive .escaped
  else if c = 3 then .hostRegister
  else .receive .normal

/-- A word of the table as a stream and its bytes, the lowest byte first: up to 8 bits one byte, up to 24 bits a
command word. -/
def tableWord (p : Params) (nbits w : Nat) : Option (Stream × List Byte) :=
  if nbits ≤ 8 then
    if w < 256 then some (tableByteStream p (BitVec.ofNat 8 w), [BitVec.ofNat 8 w]) else none
  else if nbits ≤ 24 then
    if w < 16777216 then
      some (.command, [BitVec.ofNat 8 w, BitVec.ofNat 8 (w / 256), BitVec.ofNat 8 (w / 65536)])
    else none
  else none

/-- The instruction the decoder reads from a word of the table, under the default parameters (R95). -/
def decodeTableWord (nbits w : Nat) : Option Instr :=
  match tableWord Params.default nbits w with
  | none => none
  | some (st, bytes) => (decode Params.default st bytes).toOption

end Sys2Proof
end

