-- ==== Sys2Proof/Machine/State.lean ====
section
/-! DEFINITION. The state of the block and of the environment it acts on (10_state), the ways a step can stop, and the
state after reset. Plain data. -/

namespace Sys2Proof.Machine

/-- The sequencer's step labels (10_state R33). -/
inductive Seq where
  | idle
  | d0 | d1
  | e0 | e1 | e2 | e3
  | v0 | v1 | v2 | v3 | v4
  | a0 | a1 | a2
  deriving DecidableEq, Repr

/-- The detector's output lines (40_delimiter_detector R110; log 15). -/
structure Detector where
  isEnd : Bool
  isEsc : Bool
  frameEnd : Bool
  noise : Bool
  xl : Byte
  deriving DecidableEq, Repr

/-- One access of the host on its port (46_host_interface R232): registers by their 3-bit number, `BUF` by an 8-bit
index. A register write carries 16 bits, of which the register keeps the low ones. -/
inductive HostAccess where
  | writeReg (number : BitVec 3) (value : Word)
  | readReg (number : BitVec 3)
  | writeBuf (index : Byte) (value : Byte)
  | readBuf (index : Byte)
  deriving DecidableEq, Repr

/-- One pending move of the world outside the block (log 11). -/
inductive Input where
  /-- nothing from outside in this step: the block moves -/
  | quiet
  /-- the host accesses its port -/
  | host (a : HostAccess)
  /-- a character arrives at the transport (R35) -/
  | arrive (c : Byte)
  /-- the reset input is asserted (R280, R281) -/
  | assertReset
  /-- the reset input is released (R280) -/
  | releaseReset
  deriving DecidableEq, Repr

/-- `BUF` as address and byte pairs: addresses strictly rising; an unlisted byte has no value (log 7). -/
abbrev Memory := List Host.Cell

/-- Everything the spec gives the machine (10_state R21, R35, R36), and the model's own fields at the end. -/
structure State where
  /-- the parameters of this instance (R5 to R9; log 1) -/
  par : Params
  /-- `OP`, register 0 (R23) -/
  op : BitVec 3
  /-- `LEN`, register 1 (R24) -/
  len : Byte
  /-- `OFF`, register 2 (R25) -/
  off : Byte
  /-- `STATUS.BUSY`, register 4 bit 0 (R27) -/
  busy : Bool
  /-- `RES`, register 5 (R28) -/
  res : Word
  /-- `MODE` (R29) -/
  mode : Mode
  /-- `CNT` (R30) -/
  cnt : BitVec 8
  /-- `IDX` (R31) -/
  idx : BitVec 9
  /-- `CRC` (R32) -/
  crc : Word
  /-- `RCRC` (R32) -/
  rcrc : Word
  /-- `SUB` (R32) -/
  sub : Byte
  /-- `SEQ` (R33) -/
  seq : Seq
  /-- `BUF` (R34) -/
  buf : Memory
  /-- `RXS` from the transport's cursor on, oldest first (R35) -/
  rxs : List Byte
  /-- `TXLOG`, oldest first (R36) -/
  txlog : List Byte
  /-- the level of the reset input: asserted or not (R280) -/
  resetHeld : Bool
  /-- the detector's output lines (R110; log 15) -/
  det : Detector
  /-- MODEL's own: the pending moves from outside, oldest first (log 11) -/
  inputs : List Input
  /-- MODEL's own: the answers already drawn for coming receive polls (log 9) -/
  polls : List Bool
  /-- MODEL's own: how many free values have been drawn (log 9) -/
  draws : Nat
  /-- MODEL's own: what the host's last read returned (log 16) -/
  hostRead : Option Word
  deriving DecidableEq, Repr

/-- Model-level faults (60_exceptions R252); the hardware raises none. Both are safe: nothing is claimed where the real
block would go on. -/
inductive Fault where
  /-- a block access to `BUF` not within `BUF_SIZE` (R51); raised by `State.memRead` and `State.memWrite`; safe -/
  | bufBounds
  /-- a read, by block or host, of a `BUF` byte nothing has written since reset (R252); raised by `State.memRead` and
  `hostAccess`; safe -/
  | unwrittenRead
  deriving DecidableEq, Repr

/-- Requests the spec gives no meaning (00_scope R13, 60_exceptions R252). All are safe: the model stops. -/
inductive Refusal where
  /-- an instruction without a meaning: raised by no arm; safe -/
  | notModelled (mnemonic : String)
  /-- `GO` with `OP` 4 to 7 (R90, R235); raised by `execReserved`; safe -/
  | reservedOp
  /-- a host access other than a `STATUS` read while `BUSY` (R233), a `GO` or another command while `BUSY` (R234);
  raised by `hostAccess`, `execGo` and the commands; safe -/
  | hostWhileBusy
  /-- a host access to `BUF` at or beyond `BUF_SIZE` (R232); raised by `hostAccess`; safe -/
  | hostBufBounds
  /-- parameters that break R6; raised by `step`; safe -/
  | badConstants
  /-- a host write to `STATUS` or `RES`, which are read only (R27, R28; log 17); raised by `hostAccess`; safe -/
  | hostReadOnly
  /-- a host access to register number 6 or 7, which do not exist (log 17); raised by `hostAccess`; safe -/
  | noSuchRegister
  deriving DecidableEq, Repr

/-- What an instruction or a step answers. -/
abbrev Result := Host.Outcome State Fault Refusal

/-- After reset (R40, R280): the reset input released, `BUSY` 0, `SEQ` IDLE, `MODE` NORMAL. DESIGN CHOICE (log 6): the
registers the spec leaves unspecified hold 0. The environment holds nothing yet (log 25); the parameters are the defaults. -/
def State.reset : State where
  par := Params.default
  op := 0
  len := 0
  off := 0
  busy := false
  res := 0
  mode := .normal
  cnt := 0
  idx := 0
  crc := 0
  rcrc := 0
  sub := 0
  seq := .idle
  buf := []
  rxs := []
  txlog := []
  resetHeld := false
  det := { isEnd := false, isEsc := false, frameEnd := false, noise := false, xl := 0 }
  inputs := []
  polls := []
  draws := 0
  hostRead := none

end Sys2Proof.Machine
end

