-- ==== Sys2Proof/Machine/Ops.lean ====
section
/-! DEFINITION. The named operations on `BUF`, the transport, the registers and the sequencer. There is no exception to
take and none to return from (60_exceptions R250, R256, R257): an operation ends by `State.complete` alone. -/

namespace Sys2Proof.Machine

/-! ## `BUF` as a list -/

/-- The byte at index `i`, where one has been written since reset. -/
def Memory.get : Memory → Nat → Option Byte
  | [], _ => none
  | (a, v) :: rest, i => if a = i then some v else Memory.get rest i

/-- `BUF[i] <- v`, keeping the addresses rising. -/
def Memory.set : Memory → Nat → Byte → Memory
  | [], i, v => [(i, v)]
  | (a, w) :: rest, i, v =>
    if i < a then (i, v) :: (a, w) :: rest
    else if i = a then (i, v) :: rest
    else (a, w) :: Memory.set rest i v

/-- The addresses are at least `lo`, strictly rising, and below `size`. -/
def Memory.risingFrom (size : Nat) : Nat → Memory → Bool
  | _, [] => true
  | lo, (a, _) :: rest => decide (lo ≤ a) && decide (a < size) && Memory.risingFrom size (a + 1) rest

/-- The canonical form of a `BUF` of `size` bytes. No listed value equals what an unlisted byte reads as, since an
unlisted byte has no value. -/
def Memory.wf (size : Nat) (m : Memory) : Bool := Memory.risingFrom size 0 m

/-! ## The CRC field (20_memory R53) -/

/-- The two bytes of a CRC, the one at the lower index first. -/
def crcBytes (o : ByteOrder) (v : Word) : Byte × Byte :=
  match o with
  | .le => (v.extractLsb' 0 8, v.extractLsb' 8 8)
  | .be => (v.extractLsb' 8 8, v.extractLsb' 0 8)

/-- The CRC whose byte at the lower index is `lo`, at the higher `hi`. -/
def crcOfBytes (o : ByteOrder) (lo hi : Byte) : Word :=
  match o with
  | .le => hi ++ lo
  | .be => lo ++ hi

/-! ## Accesses of the block to `BUF` (20_memory R51 to R53) -/

/-- `MemRead(addr, 1)`. -/
def State.memRead1 (s : State) (addr : Nat) : Except Fault Byte :=
  if addr + 1 ≤ s.par.bufSize.val then
    match s.buf.get addr with
    | some v => .ok v
    | none => .error .unwrittenRead
  else .error .bufBounds

/-- `MemRead(addr, 2)`: the CRC field at `addr`. -/
def State.memRead2 (s : State) (addr : Nat) : Except Fault Word :=
  if addr + 2 ≤ s.par.bufSize.val then
    match s.buf.get addr, s.buf.get (addr + 1) with
    | some lo, some hi => .ok (crcOfBytes s.par.order lo hi)
    | _, _ => .error .unwrittenRead
  else .error .bufBounds

/-- `MemWrite(addr, 1, v)`. -/
def State.memWrite1 (s : State) (addr : Nat) (v : Byte) : Except Fault State :=
  if addr + 1 ≤ s.par.bufSize.val then .ok { s with buf := s.buf.set addr v }
  else .error .bufBounds

/-- `MemWrite(addr, 2, v)`: the CRC field at `addr`. -/
def State.memWrite2 (s : State) (addr : Nat) (v : Word) : Except Fault State :=
  if addr + 2 ≤ s.par.bufSize.val then
    let b := crcBytes s.par.order v
    .ok { s with buf := (s.buf.set addr b.1).set (addr + 1) b.2 }
  else .error .bufBounds

/-- Go on with the value of an access, or stop with its fault. -/
def orFault {α : Type} (r : Except Fault α) (k : α → Result) : Result :=
  match r with
  | .ok v => k v
  | .error f => .fault f

/-! ## The transport (20_memory R61, R62) -/

/-- The answer the transport gives to the next poll while it holds a character: the draw already made, or a free
one (log 9). -/
def State.rxAvailable (s : State) : Bool :=
  match s.polls with
  | a :: _ => a
  | [] => Config.rxAvail s.draws

/-- The draw of a poll is spent. Only the environment's own fields change. -/
def State.spendDraw (s : State) : State :=
  match s.polls with
  | _ :: rest => { s with polls := rest }
  | [] => { s with draws := s.draws + 1 }

/-- The oldest character is consumed by a poll that answered it. -/
def State.takeChar (s : State) : State :=
  { s.spendDraw with rxs := s.rxs.tail }

/-- `RxPoll()`: `none`, or the oldest character, which is consumed. If the transport holds no character the answer is
`none` and nothing changes. -/
def State.rxPoll (s : State) : Option Byte × State :=
  match s.rxs with
  | [] => (none, s)
  | c :: _ => if s.rxAvailable then (some c, s.takeChar) else (none, s.spendDraw)

/-- `TxSend(c)`. -/
def State.txSend (s : State) (c : Byte) : State := { s with txlog := s.txlog ++ [c] }

/-- A character arrives at the transport: it is the youngest it holds (R35). -/
def State.arrive (s : State) (c : Byte) : State := { s with rxs := s.rxs ++ [c] }

/-! ## The sequencer -/

/-- The first step of the operation `OP` selects (R230); none for a reserved code. -/
def Seq.first (op : BitVec 3) : Option Seq :=
  match op.toNat with
  | 0 => some .d0
  | 1 => some .e0
  | 2 => some .v0
  | 3 => some .a0
  | _ => none

/-- The operation code a step label belongs to; none for IDLE. -/
def Seq.opCode : Seq → Option (BitVec 3)
  | .idle => none
  | .d0 => some 0
  | .d1 => some 0
  | .e0 => some 1
  | .e1 => some 1
  | .e2 => some 1
  | .e3 => some 1
  | .v0 => some 2
  | .v1 => some 2
  | .v2 => some 2
  | .v3 => some 2
  | .v4 => some 2
  | .a0 => some 3
  | .a1 => some 3
  | .a2 => some 3

/-- `complete(v)` (R231). -/
def State.complete (s : State) (v : Word) : State := { s with res := v, busy := false, seq := .idle }

/-- The effect of a `GO` that starts (R230): `BUSY <- 1` and `SEQ` at the first step `q`. -/
def State.start (s : State) (q : Seq) : State := { s with busy := true, seq := q }

/-- One pending move from outside has been made. -/
def State.takeInput (s : State) : State := { s with inputs := s.inputs.tail }

/-- The host sees `v` (log 16). -/
def State.observe (s : State) (v : Word) : State := { s with hostRead := some v }

/-! ## The reset input (R280, R281; logs 8 and 26) -/

/-- The reset input is asserted (R280, R281; log 8): BUSY 0, IDLE, NORMAL; the other registers hold unspecified values,
`BUF` no value, `RES` is not written if an operation was cut short; the transport is not touched. If it is asserted
already, nothing changes. -/
def State.assertReset (s : State) : State :=
  if s.resetHeld then s
  else
    { s with
      resetHeld := true
      busy := false
      seq := .idle
      mode := .normal
      op := (Config.freeWord s.draws).setWidth 3
      len := (Config.freeWord (s.draws + 1)).setWidth 8
      off := (Config.freeWord (s.draws + 2)).setWidth 8
      res := if s.busy then s.res else Config.freeWord (s.draws + 3)
      cnt := (Config.freeWord (s.draws + 4)).setWidth 8
      idx := (Config.freeWord (s.draws + 5)).setWidth 9
      crc := Config.freeWord (s.draws + 6)
      rcrc := Config.freeWord (s.draws + 7)
      sub := (Config.freeWord (s.draws + 8)).setWidth 8
      buf := []
      draws := s.draws + 9 }

/-- The reset input is released (R280): what the block held while it was asserted, it holds. -/
def State.releaseReset (s : State) : State := { s with resetHeld := false }

/-- `OP` holds an unspecified value after a write to it while reset is asserted (R280; log 26). -/
def State.unsettleOp (s : State) : State :=
  { s with op := (Config.freeWord s.draws).setWidth 3, draws := s.draws + 1 }

/-- As `State.unsettleOp`, for `LEN`. -/
def State.unsettleLen (s : State) : State :=
  { s with len := (Config.freeWord s.draws).setWidth 8, draws := s.draws + 1 }

/-- As `State.unsettleOp`, for `OFF`. -/
def State.unsettleOff (s : State) : State :=
  { s with off := (Config.freeWord s.draws).setWidth 8, draws := s.draws + 1 }

end Sys2Proof.Machine
end

