-- ==== Sys2Proof/Machine/Operands.lean ====
section
/-! DEFINITION. Operand assembly (30_encoding R89): `LEN` and `OFF` are unsigned 8-bit numbers, zero-extended; every sum is
exact. -/

namespace Sys2Proof.Machine

/-- `zext_16(v)` of a count. -/
def zext16 (v : Byte) : Word := v.setWidth 16

/-- The value APPEND completes with (R210, R212): the 16-bit sum `zext_16(LEN) + 2`. -/
def appendTotal (len : Byte) : Word := zext16 len + 2

/-- VERIFY's precondition (R190 step V0, R191): `LEN != 0` and `OFF + 2 <= LEN`, exact. -/
def verifyPrecondition (len off : Byte) : Bool := len != 0 && decide (off.toNat + 2 ≤ len.toNat)

/-- The operands of a command are those of the registers: the command is the one in progress (R65; log 14). Only VERIFY
uses `OFF` (R89). -/
def State.hasLen (s : State) (len : Byte) : Bool := s.len = len

/-- As `State.hasLen`, with `OFF`. -/
def State.hasLenOff (s : State) (len off : Byte) : Bool := s.len = len && s.off = off

/-- The instruction the command registers hold (R87, R88). -/
def State.command (s : State) : Instr := decodeCommand s.op s.len s.off

end Sys2Proof.Machine
end

