-- ==== Sys2Proof/Machine/Flags.lean ====
section
/-! DEFINITION. The two 1-bit flags (10_state R38): `STATUS.BUSY` and `MODE`. No operation writes another. -/

namespace Sys2Proof.Machine

/-- The `STATUS` register as the host reads it (R27): bit 0 is `BUSY`, the bits above read 0. -/
def State.status (s : State) : Word := if s.busy then 1 else 0

/-- `MODE <- m`. -/
def State.setMode (s : State) (m : Mode) : State := { s with mode := m }

/-- The code of a mode (R29). -/
def modeCode : Mode → BitVec 1
  | .normal => 0
  | .escaped => 1

end Sys2Proof.Machine
end

