-- ==== Sys2Proof/Machine/Commands.lean ====
section
/-! DEFINITION. What the five CMD rows share, and RESERVED (30_encoding R87 to R93; log 14). A CMD instruction does what the
block does next for that command: at IDLE it is issued, at one of its own step labels that step runs, and while another
command is in progress it is refused. -/

namespace Sys2Proof.Machine

/-- The writes of R93 while reset is asserted: the registers written hold unspecified values and nothing starts (R280;
log 26). -/
def State.issueInReset (s : State) (off : Option Byte) : State :=
  match off with
  | none => s.unsettleOp.unsettleLen
  | some _ => s.unsettleOp.unsettleLen.unsettleOff

/-- Issue a command from IDLE, as R93 lists it: write `OP`, `LEN`, for VERIFY `OFF`, then `GO` (R230). -/
def State.issue (s : State) (op : BitVec 3) (len : Byte) (off : Option Byte) (q : Seq) : Result :=
  if s.busy then .refused .hostWhileBusy
  else if s.resetHeld then .next (s.issueInReset off)
  else .next (({ s with op := op, len := len, off := off.getD s.off } : State).start q)

/-- Run a step of a command in progress if `mine` says the instruction is that command, else refuse (R234). -/
def inProgress (mine : Bool) (r : Result) : Result := if mine then r else .refused .hostWhileBusy

/-- `RESERVED` (R90, R235): a `GO` with `OP` 4 to 7 starts nothing and is refused. -/
def execReserved (_op : BitVec 3) (_len _off : Byte) (s : State) : Result :=
  if s.busy then .refused .hostWhileBusy else .refused .reservedOp

end Sys2Proof.Machine
end

