-- ==== Sys2Proof/Machine/Crc.lean ====
section
/-! DEFINITION. The CRC-16 generator (43_crc16_generator). -/

namespace Sys2Proof.Machine

/-- One of the eight shifts of R183. -/
def crcShift (t : Word) : Word := if t.getLsbD 0 then (t >>> 1) ^^^ 0xA001 else t >>> 1

/-- `n` shifts. -/
def crcShifts : Nat → Word → Word
  | 0, t => t
  | n + 1, t => crcShifts n (crcShift t)

/-- The default `CRC16_UPDATE` (R183; PRESUMED, log 3). -/
def crc16Arc (crc : Word) (b : Byte) : Word := crcShifts 8 (crc ^^^ b.setWidth 16)

/-- `crc16_update(crc, b)` of an instance (R7, R181): a total function of its two arguments. -/
def crc16Update (f : CrcFn) (crc : Word) (b : Byte) : Word :=
  match f with
  | .arc => crc16Arc crc b
  | .external k => Config.crc16External k crc b

/-- `crc16` of a byte sequence (R186). -/
def crc16 (f : CrcFn) (bytes : List Byte) : Word := bytes.foldl (crc16Update f) 0

/-- `CRC <- 0x0000`. -/
def State.crcClear (s : State) : State := { s with crc := 0 }

/-- `CRC <- crc16_update(CRC, b)`. -/
def State.crcFold (s : State) (b : Byte) : State := { s with crc := crc16Update s.par.crcFn s.crc b }

/-- `CRCCLR` (R184). -/
def execCrcclr (s : State) : Result := .next s.crcClear

/-- `CRCUPD` (R185). -/
def execCrcupd (b : Byte) (s : State) : Result := .next (s.crcFold b)

end Sys2Proof.Machine
end

