-- ==== Sys2Proof/Machine/Append.lean ====
section
/-! DEFINITION. APPEND (45_crc_append R210). -/

namespace Sys2Proof.Machine

/-- Step A0. -/
def appendA0 (s : State) : Result :=
  orFault (s.memWrite2 s.len.toNat 0) fun s1 => .next { s1.crcClear with idx := 0, seq := .a1 }

/-- Step A1. -/
def appendA1 (s : State) : Result :=
  orFault (s.memRead1 s.idx.toNat) fun b =>
    let s1 : State := { s.crcFold b with idx := s.idx + 1 }
    .next { s1 with seq := if s1.idx.toNat = s1.len.toNat + 2 then .a2 else .a1 }

/-- Step A2. -/
def appendA2 (s : State) : Result :=
  orFault (s.memWrite2 s.len.toNat s.crc) fun s1 => .next (s1.complete (appendTotal s1.len))

/-- `APPEND` (R210). `OFF` is ignored (R89). -/
def execAppend (len _off : Byte) (s : State) : Result :=
  match s.seq with
  | .idle => s.issue 3 len none .a0
  | .a0 => inProgress (s.hasLen len) (appendA0 s)
  | .a1 => inProgress (s.hasLen len) (appendA1 s)
  | .a2 => inProgress (s.hasLen len) (appendA2 s)
  | _ => .refused .hostWhileBusy

end Sys2Proof.Machine
end

