-- ==== Sys2Proof/Machine/Detector.lean ====
section
/-! DEFINITION. The frame delimiter detector (40_delimiter_detector): the combinational functions and the three MICRO rows
that are theirs. -/

namespace Sys2Proof.Machine

/-- `is_end` (R111). -/
def isEnd (p : Params) (c : Byte) : Bool := c == p.endC

/-- `is_esc` (R111): the `END` test comes first. -/
def isEsc (p : Params) (c : Byte) : Bool := c != p.endC && c == p.escC

/-- `frame_end` (R112); blind in ESCAPED (R113). -/
def frameEnd (p : Params) (m : Mode) (cnt : BitVec 8) (c : Byte) : Bool :=
  m == .normal && isEnd p c && decide (0 < cnt.toNat)

/-- `noise` (R112); blind in ESCAPED (R113). -/
def noise (p : Params) (m : Mode) (cnt : BitVec 8) (c : Byte) : Bool :=
  m == .normal && isEnd p c && decide (cnt.toNat = 0)

/-- `xl` (R114): the `ESC_END` test comes first. -/
def translateByte (p : Params) (c : Byte) : Byte :=
  if c = p.escEnd then p.endC else if c = p.escEsc then p.escC else c

/-- All output lines for one character (R110). -/
def detect (p : Params) (m : Mode) (cnt : BitVec 8) (c : Byte) : Detector where
  isEnd := isEnd p c
  isEsc := isEsc p c
  frameEnd := frameEnd p m cnt c
  noise := noise p m cnt c
  xl := translateByte p c

/-- The detector sees `c`: its lines take their values (log 15). -/
def State.drive (s : State) (c : Byte) : State := { s with det := detect s.par s.mode s.cnt c }

/-- `CLASSIFY` (R111). -/
def execClassify (c : Byte) (s : State) : Result :=
  .next { s with det := { s.det with isEnd := isEnd s.par c, isEsc := isEsc s.par c } }

/-- `BOUNDARY` (R112, R113). -/
def execBoundary (c : Byte) (s : State) : Result :=
  .next { s with
    det := { s.det with
      frameEnd := frameEnd s.par s.mode s.cnt c
      noise := noise s.par s.mode s.cnt c } }

/-- `XLATE` (R114). -/
def execXlate (c : Byte) (s : State) : Result :=
  .next { s with det := { s.det with xl := translateByte s.par c } }

end Sys2Proof.Machine
end

