-- ==== Sys2Proof/Machine/Decoder.lean ====
section
/-! DEFINITION. DECODE (41_decoder R130) and the WIRE_RX rows (30_encoding R82). -/

namespace Sys2Proof.Machine

/-- `append(v)` of R130: store, count, and complete at once if the buffer is full. -/
def State.appendByte (s : State) (v : Byte) : Result :=
  orFault (s.memWrite1 s.cnt.toNat v) fun s1 =>
    let s2 : State := { s1 with cnt := s1.cnt + 1 }
    if s2.cnt = s2.len then .next (s2.complete (zext16 s2.len)) else .next s2

/-- Step D0. -/
def decodeD0 (s : State) : Result :=
  let s1 : State := { s.setMode .normal with cnt := 0 }
  if s.len = 0 then .next (s1.complete 0) else .next { s1 with seq := .d1 }

/-- Step D1. -/
def decodeD1 (s : State) : Result :=
  match s.rxPoll with
  | (none, s1) => .next s1
  | (some c, s1) =>
    let s2 := s1.drive c
    match s2.mode with
    | .normal =>
      if s2.det.frameEnd then .next (s2.complete (zext16 s2.cnt))
      else if s2.det.noise then .next s2
      else if s2.det.isEsc then .next (s2.setMode .escaped)
      else s2.appendByte c
    | .escaped => (s2.setMode .normal).appendByte s2.det.xl

/-- `DECODE` (R130). `OFF` is ignored (R89). -/
def execDecode (len _off : Byte) (s : State) : Result :=
  match s.seq with
  | .idle => s.issue 0 len none .d0
  | .d0 => inProgress (s.hasLen len) (decodeD0 s)
  | .d1 => inProgress (s.hasLen len) (decodeD1 s)
  | _ => .refused .hostWhileBusy

/-- `RX_END` (R112): `END` in NORMAL closes the frame if a byte has been collected, else it is noise. -/
def execRxEnd (s : State) : Result :=
  let s1 := s.takeChar.drive s.par.endC
  if s.cnt = 0 then .next s1 else .next (s1.complete (zext16 s.cnt))

/-- `RX_ESC` (R111, R130): `ESC` in NORMAL; nothing is appended. -/
def execRxEsc (s : State) : Result := .next ((s.takeChar.drive s.par.escC).setMode .escaped)

/-- `RX_DATA` (R130): a data byte in NORMAL. -/
def execRxData (c : Byte) (s : State) : Result := (s.takeChar.drive c).appendByte c

/-- `RX_XL_END` (R114): `ESC_END` in ESCAPED is the data byte `END`. -/
def execRxXlEnd (s : State) : Result :=
  ((s.takeChar.drive s.par.escEnd).setMode .normal).appendByte s.par.endC

/-- `RX_XL_ESC` (R114): `ESC_ESC` in ESCAPED is the data byte `ESC`. -/
def execRxXlEsc (s : State) : Result :=
  ((s.takeChar.drive s.par.escEsc).setMode .normal).appendByte s.par.escC

/-- `RX_XL_OTHER` (R113, R114): any other character in ESCAPED is data as it stands. -/
def execRxXlOther (c : Byte) (s : State) : Result :=
  ((s.takeChar.drive c).setMode .normal).appendByte c

end Sys2Proof.Machine
end

