-- ==== Sys2Proof/Machine/Encoder.lean ====
section
/-! DEFINITION. ENCODE (42_encoder R160) and the WIRE_TX rows (30_encoding R81). -/

namespace Sys2Proof.Machine

/-- `IDX <- IDX + 1`, then E3 after the last byte, else the step `more`. -/
def State.advance (s : State) (more : Seq) : State :=
  let s1 : State := { s with idx := s.idx + 1 }
  { s1 with seq := if s1.idx.toNat = s1.len.toNat then .e3 else more }

/-- The first half of an escape pair (R160 step E1): send `ESC`, hold the substitute. -/
def State.sendEscape (s : State) (substitute : Byte) : State :=
  { s.txSend s.par.escC with sub := substitute, seq := .e2 }

/-- Step E0. -/
def encodeE0 (s : State) : Result :=
  .next { s.txSend s.par.endC with idx := 0, seq := if s.len = 0 then .e3 else .e1 }

/-- Step E1. -/
def encodeE1 (s : State) : Result :=
  orFault (s.memRead1 s.idx.toNat) fun b =>
    if b = s.par.endC then .next (s.sendEscape s.par.escEnd)
    else if b = s.par.escC then .next (s.sendEscape s.par.escEsc)
    else .next ((s.txSend b).advance s.seq)

/-- Step E2. -/
def encodeE2 (s : State) : Result := .next ((s.txSend s.sub).advance .e1)

/-- Step E3. -/
def encodeE3 (s : State) : Result := .next ((s.txSend s.par.endC).complete (zext16 s.len))

/-- `ENCODE` (R160). `OFF` is ignored (R89). -/
def execEncode (len _off : Byte) (s : State) : Result :=
  match s.seq with
  | .idle => s.issue 1 len none .e0
  | .e0 => inProgress (s.hasLen len) (encodeE0 s)
  | .e1 => inProgress (s.hasLen len) (encodeE1 s)
  | .e2 => inProgress (s.hasLen len) (encodeE2 s)
  | .e3 => inProgress (s.hasLen len) (encodeE3 s)
  | _ => .refused .hostWhileBusy

/-- `TX_ESCAPE_END` (R81): payload byte `END`, two characters in two steps: `ESC` (E1), then `ESC_END` held in `SUB`
(E2). -/
def execTxEscapeEnd (s : State) : Result :=
  match s.seq with
  | .e2 => encodeE2 s
  | _ => .next (s.sendEscape s.par.escEnd)

/-- `TX_ESCAPE_ESC` (R81): payload byte `ESC`, two characters in two steps: `ESC` (E1), then `ESC_ESC` held in `SUB`
(E2). -/
def execTxEscapeEsc (s : State) : Result :=
  match s.seq with
  | .e2 => encodeE2 s
  | _ => .next (s.sendEscape s.par.escEsc)

/-- `TX_DATA` (R81): any other payload byte, sent unchanged. -/
def execTxData (b : Byte) (s : State) : Result := .next ((s.txSend b).advance s.seq)

/-- `TX_DELIMITER` (R160): the leading `END` (E0) and the trailing one (E3). At another step label only the character
is sent (log 20). -/
def execTxDelimiter (s : State) : Result :=
  match s.seq with
  | .e0 => encodeE0 s
  | .e3 => encodeE3 s
  | _ => .next (s.txSend s.par.endC)

end Sys2Proof.Machine
end

