-- ==== Sys2Proof/Machine/HostPort.lean ====
section
/-! DEFINITION. The host port (46_host_interface R230 to R235; 10_state section 2). -/

namespace Sys2Proof.Machine

/-- The host registers by their numbers 0 to 5 (10_state section 2). -/
inductive HostReg where
  | op | len | off | go | status | res
  deriving DecidableEq, Repr

/-- The register a number selects; 6 and 7 select none (log 17). -/
def hostReg (n : BitVec 3) : Option HostReg :=
  match n.toNat with
  | 0 => some .op
  | 1 => some .len
  | 2 => some .off
  | 3 => some .go
  | 4 => some .status
  | 5 => some .res
  | _ => none

/-- `GO` (R230, R234, R235). While reset is asserted nothing starts: `BUSY` stays 0 (R280; log 26). -/
def execGo (s : State) : Result :=
  if s.busy then .refused .hostWhileBusy
  else match Seq.first s.op with
    | some q => .next (if s.resetHeld then s else s.start q)
    | none => execReserved s.op s.len s.off s

/-- A host read of a register while idle (R232). `GO` returns an unspecified value (R26). -/
def hostReadIdle (s : State) (r : HostReg) : State :=
  match r with
  | .op => s.observe (s.op.setWidth 16)
  | .len => s.observe (zext16 s.len)
  | .off => s.observe (zext16 s.off)
  | .go => ({ s with draws := s.draws + 1 } : State).observe (Config.freeWord s.draws)
  | .status => s.observe s.status
  | .res => s.observe s.res

/-- A host write of a register while idle: the low bits that fit are stored (R232). While reset is asserted the register
holds an unspecified value instead (R280; log 26). -/
def hostWriteIdle (s : State) (r : HostReg) (v : Word) : Result :=
  match r with
  | .op => .next (if s.resetHeld then s.unsettleOp else { s with op := v.setWidth 3 })
  | .len => .next (if s.resetHeld then s.unsettleLen else { s with len := v.setWidth 8 })
  | .off => .next (if s.resetHeld then s.unsettleOff else { s with off := v.setWidth 8 })
  | .go => execGo s
  | .status => .refused .hostReadOnly
  | .res => .refused .hostReadOnly

/-- One host access. While `BUSY` only a `STATUS` read has a meaning (R233). While reset is asserted a written byte of `BUF`
stays without a value (R280; log 26). -/
def hostAccess (a : HostAccess) (s : State) : Result :=
  if s.busy then
    if a = .readReg 4 then .next (s.observe s.status) else .refused .hostWhileBusy
  else
    match a with
    | .readReg n =>
      match hostReg n with
      | some r => .next (hostReadIdle s r)
      | none => .refused .noSuchRegister
    | .writeReg n v =>
      match hostReg n with
      | some r => hostWriteIdle s r v
      | none => .refused .noSuchRegister
    | .readBuf i =>
      if i.toNat < s.par.bufSize.val then
        match s.buf.get i.toNat with
        | some v => .next (s.observe (zext16 v))
        | none => .fault .unwrittenRead
      else .refused .hostBufBounds
    | .writeBuf i v =>
      if i.toNat < s.par.bufSize.val then
        .next (if s.resetHeld then s else { s with buf := s.buf.set i.toNat v })
      else .refused .hostBufBounds

end Sys2Proof.Machine
end

