-- ==== Sys2Proof/Machine/Verify.lean ====
section
/-! DEFINITION. VERIFY (44_crc_verify R190). -/

namespace Sys2Proof.Machine

/-- Step V0. -/
def verifyV0 (s : State) : Result :=
  if verifyPrecondition s.len s.off then .next { s with seq := .v1 } else .next (s.complete 0)

/-- Step V1. -/
def verifyV1 (s : State) : Result :=
  orFault (s.memRead2 s.off.toNat) fun v => .next { s with rcrc := v, seq := .v2 }

/-- Step V2. -/
def verifyV2 (s : State) : Result :=
  orFault (s.memWrite2 s.off.toNat 0) fun s1 => .next { s1.crcClear with idx := 0, seq := .v3 }

/-- Step V3. -/
def verifyV3 (s : State) : Result :=
  orFault (s.memRead1 s.idx.toNat) fun b =>
    let s1 : State := { s.crcFold b with idx := s.idx + 1 }
    .next { s1 with seq := if s1.idx.toNat = s1.len.toNat then .v4 else .v3 }

/-- Step V4. -/
def verifyV4 (s : State) : Result := .next (s.complete (if s.crc = s.rcrc then s.crc else 0))

/-- `VERIFY` (R190). -/
def execVerify (len off : Byte) (s : State) : Result :=
  match s.seq with
  | .idle => s.issue 2 len (some off) .v0
  | .v0 => inProgress (s.hasLenOff len off) (verifyV0 s)
  | .v1 => inProgress (s.hasLenOff len off) (verifyV1 s)
  | .v2 => inProgress (s.hasLenOff len off) (verifyV2 s)
  | .v3 => inProgress (s.hasLenOff len off) (verifyV3 s)
  | .v4 => inProgress (s.hasLenOff len off) (verifyV4 s)
  | _ => .refused .hostWhileBusy

end Sys2Proof.Machine
end

