-- ==== Sys2Proof/Machine/Dispatch.lean ====
section
/-! DEFINITION. One arm per row of the opcode table. -/

namespace Sys2Proof.Machine

/-- What an instruction does to a state. -/
def exec (i : Instr) (s : State) : Host.Outcome State Fault Refusal :=
  match i with
  | .decode len off => Sys2Proof.Machine.execDecode len off s
  | .encode len off => Sys2Proof.Machine.execEncode len off s
  | .verify len off => Sys2Proof.Machine.execVerify len off s
  | .append len off => Sys2Proof.Machine.execAppend len off s
  | .reserved op len off => Sys2Proof.Machine.execReserved op len off s
  | .rxEnd => Sys2Proof.Machine.execRxEnd s
  | .rxEsc => Sys2Proof.Machine.execRxEsc s
  | .rxData c => Sys2Proof.Machine.execRxData c s
  | .rxXlEnd => Sys2Proof.Machine.execRxXlEnd s
  | .rxXlEsc => Sys2Proof.Machine.execRxXlEsc s
  | .rxXlOther c => Sys2Proof.Machine.execRxXlOther c s
  | .txEscapeEnd => Sys2Proof.Machine.execTxEscapeEnd s
  | .txEscapeEsc => Sys2Proof.Machine.execTxEscapeEsc s
  | .txData b => Sys2Proof.Machine.execTxData b s
  | .txDelimiter => Sys2Proof.Machine.execTxDelimiter s
  | .crcclr => Sys2Proof.Machine.execCrcclr s
  | .crcupd b => Sys2Proof.Machine.execCrcupd b s
  | .classify c => Sys2Proof.Machine.execClassify c s
  | .boundary c => Sys2Proof.Machine.execBoundary c s
  | .xlate c => Sys2Proof.Machine.execXlate c s
  | .go => Sys2Proof.Machine.execGo s

end Sys2Proof.Machine
end

