-- ==== Sys2Proof/Machine/Fetch.lean ====
section
/-! DEFINITION. Which move comes next, and how a word of the table is placed so that it is that move (logs 11 and 18). The
block has no program and no instruction fetch (10_state R33): the command registers are its instruction register. -/

namespace Sys2Proof.Machine

/-- What one step does. -/
inductive Move where
  /-- nothing: the block is idle and nothing comes from outside (R41) -/
  | rest
  /-- the block, or a `GO`, runs an instruction of the table -/
  | run (i : Instr)
  /-- the host accesses a register other than `GO`, or `BUF` -/
  | access (a : HostAccess)
  /-- a character arrives -/
  | arrive (c : Byte)
  /-- the reset input is asserted -/
  | assertReset
  /-- the reset input is released -/
  | releaseReset
  deriving DecidableEq, Repr

/-- The block's own move: the command the registers hold, unless the sequencer is IDLE. -/
def State.blockMove (s : State) : Move := if s.seq = .idle then .rest else .run s.command

/-- A host access as a move: a write to register 3 is the instruction `GO` (R95). -/
def HostAccess.move (a : HostAccess) : Move :=
  match a with
  | .writeReg n v => if n = 3 then .run .go else .access (.writeReg n v)
  | .readReg n => .access (.readReg n)
  | .writeBuf i v => .access (.writeBuf i v)
  | .readBuf i => .access (.readBuf i)

/-- The next move: the oldest pending one from outside; the block's, if none is pending or the oldest is `quiet`. -/
def State.nextMove (s : State) : Move :=
  match s.inputs with
  | [] => s.blockMove
  | .quiet :: _ => s.blockMove
  | .host a :: _ => a.move
  | .arrive c :: _ => .arrive c
  | .assertReset :: _ => .assertReset
  | .releaseReset :: _ => .releaseReset

/-- A command word is placed in the command registers, with the reset input released, as in every placing. For
`OP` 0 to 3 the block stands at the command's first step; a reserved code starts nothing, so the host's `GO` write is
pending instead. -/
def State.placeCommand (s : State) (op : BitVec 3) (len off : Byte) : State :=
  match Seq.first op with
  | some q => { s with op := op, len := len, off := off, busy := true, seq := q, resetHeld := false, inputs := [] }
  | none =>
    { s with
      op := op, len := len, off := off, busy := false, seq := .idle, resetHeld := false
      inputs := [.host (.writeReg 3 0)] }

/-- A character is placed as the next one the transport delivers, at once, to a DECODE that receives in mode `m`. -/
def State.placeReceived (s : State) (m : Mode) (c : Byte) : State :=
  { s with
    op := 0
    len := 255
    busy := true
    seq := .d1
    mode := m
    rxs := c :: s.rxs
    polls := true :: s.polls
    resetHeld := false
    inputs := [] }

/-- A payload byte is placed as the next one of an ENCODE at E1. -/
def State.placePayload (s : State) (b : Byte) : State :=
  { s with
    op := 1, len := 255, idx := 0, busy := true, seq := .e1, buf := s.buf.set 0 b, resetHeld := false, inputs := [] }

/-- The host's `GO` write is placed as the next move of an idle block. -/
def State.placeGo (s : State) : State :=
  { s with busy := false, seq := .idle, resetHeld := false, inputs := [.host (.writeReg 3 0)] }

/-- A word is placed in its stream, so that the next move runs it. -/
def State.place (s : State) (st : Stream) (bytes : List Byte) : State :=
  match st, bytes with
  | .command, [off, len, top] => s.placeCommand (top.setWidth 3) len off
  | .receive m, [c] => s.placeReceived m c
  | .transmit, [b] => s.placePayload b
  | .hostRegister, [r] => if r = 3 then s.placeGo else s
  | _, _ => s

end Sys2Proof.Machine
end

