-- ==== Sys2Proof/Machine/Step.lean ====
section
/-! DEFINITION. One step of the whole machine, and the placing of a word of the table. -/

namespace Sys2Proof.Machine

/-- One step: the next move is made. An instance whose constants break R6 is refused. -/
def step (s : State) : Host.Outcome State Fault Refusal :=
  if s.par.ok then
    match s.nextMove with
    | .rest => .next s.takeInput
    | .run i => exec i s.takeInput
    | .access a => hostAccess a s.takeInput
    | .arrive c => .next (s.takeInput.arrive c)
    | .assertReset => .next s.takeInput.assertReset
    | .releaseReset => .next s.takeInput.releaseReset
  else .refused .badConstants

/-- `s` with a word of the opcode table placed so that the very next step runs it (log 18). -/
def State.withFetchWord (s : State) (nbits w : Nat) : State :=
  match tableWord s.par nbits w with
  | some (st, bytes) => s.place st bytes
  | none => s

end Sys2Proof.Machine
end

