-- ==== Sys2Proof/Safety.lean ====
section
/-! DEFINITION. What claims about the machine are stated in: results, runs, the invariant, buffer contents, the agreement of
two states on what the host and the transport can see. -/

namespace Sys2Proof.Machine

/-- The next state, where there is one. -/
def nextState (r : Result) : Option State :=
  match r with
  | .next t => some t
  | .fault _ => none
  | .refused _ => none

/-- The fault, where there is one. -/
def faultOf (r : Result) : Option Fault :=
  match r with
  | .next _ => none
  | .fault f => some f
  | .refused _ => none

/-- The refusal, where there is one. -/
def refusalOf (r : Result) : Option Refusal :=
  match r with
  | .next _ => none
  | .fault _ => none
  | .refused f => some f

/-- `k` steps of the machine. -/
def run (k : Nat) (s : State) : Result := Host.Core.run Sys2Proof.core k s

/-- A list of instructions, one after the other. -/
def execAll : List Instr → State → Result
  | [], s => .next s
  | i :: rest, s =>
    match exec i s with
    | .next t => execAll rest t
    | .fault f => .fault f
    | .refused r => .refused r

/-- `BUF[at], BUF[at + 1], ...` hold `bytes`. -/
def State.holds (s : State) (start : Nat) (bytes : List Byte) : Prop :=
  ∀ i, (h : i < bytes.length) → s.buf.get (start + i) = some bytes[i]

/-- The invariant of every run (10_state R29 to R33, 20_memory R51, 46_host_interface R230): `SEQ` is IDLE exactly when
`BUSY` is 0 and otherwise is a step of the operation `OP` selects; `BUF` is in canonical form and within `BUF_SIZE`;
`MODE` is ESCAPED only inside D1; the counters, `SUB` and VERIFY's and APPEND's operands are in range at the steps that
use them; while reset is asserted the block is IDLE and no byte of `BUF` has a value (R280). -/
structure State.Inv (s : State) : Prop where
  busy_iff : s.busy = true ↔ s.seq ≠ .idle
  op_of_seq : ∀ c, s.seq.opCode = some c → s.op = c
  buf_wf : Memory.wf s.par.bufSize.val s.buf = true
  escaped_only_d1 : s.mode = .escaped → s.seq = .d1
  cnt_below_len : s.seq = .d1 → s.cnt.toNat < s.len.toNat
  idx_below_len : s.seq = .e1 ∨ s.seq = .e2 ∨ s.seq = .v3 → s.idx.toNat < s.len.toNat
  sub_substitute : s.seq = .e2 → s.sub = s.par.escEnd ∨ s.sub = s.par.escEsc
  field_in_len : s.seq = .v1 ∨ s.seq = .v2 ∨ s.seq = .v3 ∨ s.seq = .v4 → s.off.toNat + 2 ≤ s.len.toNat
  idx_below_total : s.seq = .a1 → s.idx.toNat < s.len.toNat + 2
  field_in_buf : s.seq = .a1 ∨ s.seq = .a2 → s.len.toNat + 2 ≤ s.par.bufSize.val
  reset_held : s.resetHeld = true → s.seq = .idle ∧ s.buf = []

/-- Two states agree on all but the working registers (10_state section 3) and the detector's lines. -/
def State.agree (s t : State) : Prop :=
  t = { s with mode := t.mode, cnt := t.cnt, idx := t.idx, crc := t.crc, rcrc := t.rcrc, sub := t.sub, det := t.det }

/-- Two results stop alike, or go on in states that agree. -/
def agreeResults (r q : Result) : Prop :=
  match r, q with
  | .next s, .next t => s.agree t
  | .fault f, .fault g => f = g
  | .refused f, .refused g => f = g
  | _, _ => False

/-- A step label at which no working register carries a meaning (10_state R22): IDLE, or an operation's first step. -/
def Seq.fresh (q : Seq) : Bool := q = .idle || q = .d0 || q = .e0 || q = .v0 || q = .a0

/-- The payload bytes that go out as two characters (30_encoding R83). -/
def escapedCount (p : Params) (payload : List Byte) : Nat :=
  payload.countP fun b => b == p.endC || b == p.escC

end Sys2Proof.Machine
end

