-- ==== Sys2Proof/Certificates/Slice0/Obligations.lean ====
section
/-! DEFINITION. The statements for the provers. Each docstring names the rule of spec/ the statement formalises. A statement
about a command in progress is about `.decode s.len off` and the like: the operands are those of the registers (R65), and
that `exec` of the command runs its next labelled step is log 14. -/

open Sys2Proof Sys2Proof.Machine

/-! ## Encoding -/

/-- 30_encoding R81, R82, R87, R88, R90: a few words written out from the spec read as the instructions they stand for
(30300, 10500, 20503, 01000 are the listings of 95_test_vectors). That a command word of 19 bits is given as three bytes,
lowest first, is the model's choice (log 19); the constants of the wire words are the presumed defaults (log 2). -/
def Obligations.SpecWordsDecode : Prop :=
  decode Params.default .command [0x00, 0x03, 0x03] = .ok (.append 3 0) ∧
  decode Params.default .command [0x00, 0x05, 0x01] = .ok (.encode 5 0) ∧
  decode Params.default .command [0x03, 0x05, 0x02] = .ok (.verify 5 3) ∧
  decode Params.default .command [0x00, 0x10, 0x00] = .ok (.decode 16 0) ∧
  decode Params.default .command [0x00, 0x00, 0x04] = .ok (.reserved 4 0 0) ∧
  decode Params.default (.receive .normal) [0xC0] = .ok .rxEnd ∧
  decode Params.default (.receive .normal) [0xDB] = .ok .rxEsc ∧
  decode Params.default (.receive .normal) [0xDC] = .ok (.rxData 0xDC) ∧
  decode Params.default (.receive .escaped) [0xDC] = .ok .rxXlEnd ∧
  decode Params.default (.receive .escaped) [0xDD] = .ok .rxXlEsc ∧
  decode Params.default (.receive .escaped) [0xC0] = .ok (.rxXlOther 0xC0) ∧
  decode Params.default .transmit [0xC0] = .ok .txEscapeEnd ∧
  decode Params.default .transmit [0xDB] = .ok .txEscapeEsc ∧
  decode Params.default .transmit [0x41] = .ok (.txData 0x41) ∧
  decode Params.default .hostRegister [0x03] = .ok .go

/-- 30_encoding R81, R82, R87, R88, R90, R95: under parameters that satisfy R6, every well-formed instruction that has
a code is what its code decodes to, at every value of every operand. That a command word is three bytes, lowest first,
is the model's choice (log 19). -/
def Obligations.EncodeThenDecode : Prop :=
  ∀ (p : Params) (i : Instr) (st : Stream) (bytes : List Byte), p.ok = true → i.wf p = true →
    encode p i = some (st, bytes) → decode p st bytes = .ok i

/-- 30_encoding R81, R82, R87, R88, R90, R95: bytes that decode to an instruction are its code, and the instruction is
well formed; so no two codes of a stream read as one instruction. That a command word is three bytes, lowest first, and
that bits above bit 18 are rejected, is the model's choice (log 19). -/
def Obligations.DecodeThenEncode : Prop :=
  ∀ (p : Params) (i : Instr) (st : Stream) (bytes : List Byte),
    decode p st bytes = .ok i → i.wf p = true ∧ encode p i = some (st, bytes)

/-! ## A step runs the decoded instruction -/

/-- The model's choice (logs 11 and 14), beside 10_state R33, which gives the block no instruction fetch, 30_encoding
R87 and 46_host_interface R230: while the sequencer is not IDLE and nothing (or `quiet`) is pending from outside (log
11), a step runs `exec` of the instruction the command registers decode to (as three bytes: log 19), which is that
operation's next labelled step (log 14), on the state less the pending `quiet`; a pending host write to register 3
(log 11) runs `GO`, on the state less that access. -/
def Obligations.StepRunsDecodedInstruction : Prop :=
  ∀ s : State, s.par.ok = true →
    (∀ i, (s.inputs = [] ∨ ∃ rest, s.inputs = .quiet :: rest) → s.seq ≠ .idle →
      decode s.par .command [s.off, s.len, s.op.setWidth 8] = .ok i → step s = exec i s.takeInput) ∧
    (∀ v rest, s.inputs = .host (.writeReg 3 v) :: rest → step s = exec .go s.takeInput)

/-- The model's choice (log 18): a word placed in its stream is what the very next step runs. `BUF_SIZE` is not 0,
since a payload byte is placed in `BUF[0]`. -/
def Obligations.PlacedWordRunsNext : Prop :=
  ∀ (s : State) (st : Stream) (bytes : List Byte) (i : Instr), s.par.ok = true → 0 < s.par.bufSize.val →
    decode s.par st bytes = .ok i → step (s.place st bytes) = exec i (s.place st bytes).takeInput

/-- 10_state R35, R41, 46_host_interface R232: the other moves of a step: an idle block rests, a character arrives behind
those the transport holds, a host access other than a `GO` write acts. The schedule is the model's choice (log 11). So is
the last clause (log 23): every step of an instance whose constants break 00_scope R6 is refused, where R6 and
60_exceptions R252 refuse such an instance when it is instantiated. -/
def Obligations.StepMakesOtherMoves : Prop :=
  ∀ s : State,
    (s.par.ok = true → s.seq = .idle → (s.inputs = [] ∨ ∃ rest, s.inputs = .quiet :: rest) →
      step s = .next { s with inputs := s.inputs.tail }) ∧
    (∀ c rest, s.par.ok = true → s.inputs = .arrive c :: rest →
      step s = .next { s with inputs := rest, rxs := s.rxs ++ [c] }) ∧
    (∀ a rest, s.par.ok = true → s.inputs = .host a :: rest → (∀ v, a ≠ .writeReg 3 v) →
      step s = hostAccess a { s with inputs := rest }) ∧
    (s.par.ok = false → step s = .refused .badConstants)

/-! ## DECODE -/

/-- 41_decoder R130 step D0, R131, 60_exceptions R255 (a): D0 sets `MODE` and `CNT`; with `LEN == 0` it completes with 0
before any character is read, else D1 follows. `OFF` is ignored. -/
def Obligations.DecodeFirstStep : Prop :=
  ∀ (s : State) (off : Byte), s.seq = .d0 →
    (s.len = 0 → exec (.decode s.len off) s =
      .next { s with mode := .normal, cnt := 0, res := 0, busy := false, seq := .idle }) ∧
    (s.len ≠ 0 → exec (.decode s.len off) s = .next { s with mode := .normal, cnt := 0, seq := .d1 })

/-- 41_decoder R134, 20_memory R61: with no character held D1 changes nothing; with a character held that the transport
does not deliver now, only the model's own record of the draw advances (log 9). -/
def Obligations.DecodeWaitsForCharacter : Prop :=
  ∀ (s : State) (off : Byte), s.seq = .d1 →
    (s.rxs = [] → exec (.decode s.len off) s = .next s) ∧
    (s.rxs ≠ [] → s.rxAvailable = false →
      ∃ polls draws, exec (.decode s.len off) s = .next { s with polls := polls, draws := draws })

/-- 30_encoding R82 against 41_decoder R130: a character delivered to D1 is handled as the row of the table it is in the
decoder's mode. -/
def Obligations.DecodeRunsReceivedRow : Prop :=
  ∀ (s : State) (off c : Byte) (rest : List Byte), s.seq = .d1 → s.rxs = c :: rest → s.rxAvailable = true →
    exec (.decode s.len off) s = exec (decodeReceived s.par s.mode c) s

/-- What the rows `RX_END` and `RX_ESC` do: the character is discarded when `CNT` is 0 and the operation completes
with `CNT` otherwise; `ESC` sets ESCAPED and appends nothing. At D1 in NORMAL this is 40_delimiter_detector R111,
R112; that the rows act alike at every other step label and in ESCAPED, where R113 gives no such character a meaning
as a delimiter or a prefix, is the model's choice (log 20). The character is consumed (R61) and the detector's lines
take their values (log 15); nothing else changes. -/
def Obligations.ReceivedEndAndEscape : Prop :=
  ∀ s : State,
    (s.cnt = 0 → exec .rxEnd s =
      .next { s.takeChar with det := detect s.par s.mode s.cnt s.par.endC }) ∧
    (s.cnt ≠ 0 → exec .rxEnd s =
      .next { s.takeChar with
        det := detect s.par s.mode s.cnt s.par.endC, res := zext16 s.cnt, busy := false, seq := .idle }) ∧
    exec .rxEsc s =
      .next { s.takeChar with det := detect s.par s.mode s.cnt s.par.escC, mode := .escaped }

/-- What the rows `RX_DATA`, `RX_XL_END`, `RX_XL_ESC` and `RX_XL_OTHER` do: a data character `c` stores its byte `v`
at `BUF[CNT]` and counts it; when the count reaches `LEN` the operation completes at once with `LEN`; a translated
byte leaves the mode NORMAL. At D1 in the row's own mode this is 30_encoding R82, 40_delimiter_detector R113, R114,
41_decoder R130 (`append`), R132; that the rows act alike at every other step label, in the other mode, and for a
character an earlier row of the table takes, is the model's choice (log 20). The next state is given whole (detector's
lines: log 15). -/
def Obligations.ReceivedDataIsStored : Prop :=
  ∀ (s : State) (i : Instr) (c v : Byte) (m : Mode), s.cnt.toNat + 1 ≤ s.par.bufSize.val →
    ((i = .rxData c ∧ v = c ∧ m = s.mode) ∨
     (i = .rxXlEnd ∧ c = s.par.escEnd ∧ v = s.par.endC ∧ m = .normal) ∨
     (i = .rxXlEsc ∧ c = s.par.escEsc ∧ v = s.par.escC ∧ m = .normal) ∨
     (i = .rxXlOther c ∧ v = c ∧ m = .normal)) →
    exec i s =
      .next { s.takeChar with
        det := detect s.par s.mode s.cnt c
        mode := m
        buf := s.buf.set s.cnt.toNat v
        cnt := s.cnt + 1
        res := if s.cnt + 1 = s.len then zext16 s.len else s.res
        busy := if s.cnt + 1 = s.len then false else s.busy
        seq := if s.cnt + 1 = s.len then .idle else s.seq }

/-- 20_memory R51, 60_exceptions R252: an append at an index the buffer does not have faults `BufBounds`. That the rows
append at every step label and in either mode, so that they fault there too, is the model's choice (log 20). -/
def Obligations.ReceivedDataPastBufferFaults : Prop :=
  ∀ (s : State) (c : Byte), s.par.bufSize.val ≤ s.cnt.toNat →
    exec (.rxData c) s = .fault .bufBounds ∧ exec .rxXlEnd s = .fault .bufBounds ∧
    exec .rxXlEsc s = .fault .bufBounds ∧ exec (.rxXlOther c) s = .fault .bufBounds

/-- 41_decoder R136, R139, 20_memory R67: the frame of the receive rows and of DECODE's own steps: operands, `IDX`,
`CRC`, `RCRC`, `SUB`, `TXLOG` and the parameters are unchanged, and so is every byte of `BUF` but `BUF[CNT]`; `RX_END`
and `RX_ESC` change no byte. That the rows act in every state is the model's choice (log 20). -/
def Obligations.ReceiveFrame : Prop :=
  ∀ (s t : State) (i : Instr),
    (i = .rxEnd ∨ i = .rxEsc ∨ (∃ c, i = .rxData c) ∨ i = .rxXlEnd ∨ i = .rxXlEsc ∨ (∃ c, i = .rxXlOther c) ∨
      ((s.seq = .d0 ∨ s.seq = .d1) ∧ ∃ len off, i = .decode len off)) →
    exec i s = .next t →
    t.par = s.par ∧ t.op = s.op ∧ t.len = s.len ∧ t.off = s.off ∧ t.idx = s.idx ∧ t.crc = s.crc ∧ t.rcrc = s.rcrc ∧
    t.sub = s.sub ∧ t.txlog = s.txlog ∧ t.resetHeld = s.resetHeld ∧ t.inputs = s.inputs ∧ t.hostRead = s.hostRead ∧
    (∀ a, a ≠ s.cnt.toNat → t.buf.get a = s.buf.get a) ∧
    ((i = .rxEnd ∨ i = .rxEsc) → ∀ a, t.buf.get a = s.buf.get a)

/-- 20_memory R66, 41_decoder R132: from a state that meets the invariant, a step of DECODE writes no byte at or beyond
`LEN`, and neither the count nor the result it completes with exceeds `LEN`. -/
def Obligations.DecodeStaysWithinCapacity : Prop :=
  ∀ (s t : State) (off : Byte), s.Inv → s.seq = .d0 ∨ s.seq = .d1 → exec (.decode s.len off) s = .next t →
    t.cnt.toNat ≤ s.len.toNat ∧ (t.busy = false → t.res.toNat ≤ s.len.toNat) ∧
    ∀ a, s.len.toNat ≤ a → t.buf.get a = s.buf.get a

/-- 41_decoder R131: DECODE completes in exactly two ways once `LEN > 0`: full buffer with `RES == LEN`, or a closing
`END` in NORMAL with `RES == CNT`, `1 <= CNT < LEN`; with `LEN == 0` it completes with 0 at D0; so `RES == 0` exactly
when `LEN == 0`. From a state that meets the invariant. -/
def Obligations.DecodeOutcomes : Prop :=
  ∀ (s t : State) (off : Byte), s.Inv → s.seq = .d0 ∨ s.seq = .d1 → exec (.decode s.len off) s = .next t →
    t.busy = false →
    ((s.seq = .d0 ∧ s.len = 0 ∧ t.res = 0) ∨
     (s.seq = .d1 ∧ s.len ≠ 0 ∧ t.cnt = s.len ∧ t.res = zext16 s.len) ∨
     (s.seq = .d1 ∧ s.mode = .normal ∧ s.rxs.head? = some s.par.endC ∧ t.cnt = s.cnt ∧ 1 ≤ s.cnt.toNat ∧
       s.cnt.toNat < s.len.toNat ∧ t.res = zext16 s.cnt)) ∧
    (t.res = 0 ↔ s.len = 0) ∧ t.mode = .normal ∧ t.seq = .idle

/-- 41_decoder R137, R138, 40_delimiter_detector R116 (the round trip of the source's section 8, for 1 to 255 bytes): a
DECODE whose receive stream begins with any number `n` of `END` and then a frame as ENCODE sends it, with enough polls
answered, completes with the payload in `BUF`; it leaves the closing `END` exactly when the payload fills the capacity,
and writes no other byte. Refused polls may stand between in any number; the bound counts them. -/
def Obligations.DecodeReadsEncodedFrame : Prop :=
  ∀ (s : State) (n : Nat) (payload rest : List Byte), s.par.ok = true → s.seq = .d0 → s.op = 0 → s.inputs = [] →
    1 ≤ payload.length → payload.length ≤ s.len.toNat → s.len.toNat ≤ s.par.bufSize.val →
    s.rxs = List.replicate n s.par.endC ++ wireFrame s.par payload ++ rest →
    n + (wireFrame s.par payload).length ≤ s.polls.count true →
    ∃ k t, k ≤ s.polls.length + 1 ∧ run k s = .next t ∧ t.busy = false ∧ t.seq = .idle ∧
      t.res.toNat = payload.length ∧ t.holds 0 payload ∧
      t.rxs = (if payload.length = s.len.toNat then s.par.endC :: rest else rest) ∧
      t.mode = .normal ∧ t.txlog = s.txlog ∧ t.op = s.op ∧ t.len = s.len ∧ t.off = s.off ∧
      ∀ a, payload.length ≤ a → t.buf.get a = s.buf.get a

/-- 41_decoder R132, R138 (truncation, the source's section 8): a DECODE whose capacity is 1 or more and below the
length of the payload of a frame as ENCODE sends it completes with exactly `LEN`, holds the first `LEN` bytes, leaves
the rest of the frame in the receive stream, and writes no other byte. -/
def Obligations.DecodeTruncatesLongFrame : Prop :=
  ∀ (s : State) (payload rest : List Byte), s.par.ok = true → s.seq = .d0 → s.op = 0 → s.inputs = [] →
    1 ≤ s.len.toNat → s.len.toNat < payload.length → s.len.toNat ≤ s.par.bufSize.val →
    s.rxs = wireFrame s.par payload ++ rest → (wireFrame s.par payload).length ≤ s.polls.count true →
    ∃ k t, k ≤ s.polls.length + 1 ∧ run k s = .next t ∧ t.busy = false ∧ t.seq = .idle ∧ t.res = zext16 s.len ∧
      t.holds 0 (payload.take s.len.toNat) ∧
      t.rxs = (payload.drop s.len.toNat).flatMap (wireOf s.par) ++ [s.par.endC] ++ rest ∧
      t.mode = .normal ∧ ∀ a, s.len.toNat ≤ a → t.buf.get a = s.buf.get a

/-! ## ENCODE -/

/-- 30_encoding R81 against 42_encoder R160: at E1 a readable payload byte is sent as the row of the table it is; the
delimiters of E0 and E3 are `TX_DELIMITER`. At E2 both escape rows send the held substitute, whichever pair is sent: that
is the model's choice (log 20), as R81 ends `TX_ESCAPE_END` in `ESC_END` and `TX_ESCAPE_ESC` in `ESC_ESC`. -/
def Obligations.EncodeRunsPayloadRow : Prop :=
  ∀ (s : State) (off : Byte),
    (∀ b, s.seq = .e1 → s.idx.toNat + 1 ≤ s.par.bufSize.val → s.buf.get s.idx.toNat = some b →
      exec (.encode s.len off) s = exec (decodePayload s.par b) s) ∧
    (s.seq = .e0 ∨ s.seq = .e3 → exec (.encode s.len off) s = exec .txDelimiter s) ∧
    (s.seq = .e2 → exec (.encode s.len off) s = exec .txEscapeEnd s ∧
      exec (.encode s.len off) s = exec .txEscapeEsc s)

/-- 42_encoder R160: the steps of ENCODE: E0 sends the leading `END`, E1 sends a byte or the `ESC` of a pair, E2 the held
substitute, E3 the trailing `END` and completes with `LEN`. Each next state is given whole. `OFF` is ignored. -/
def Obligations.EncodeSteps : Prop :=
  ∀ (s : State) (off : Byte),
    (s.seq = .e0 → exec (.encode s.len off) s =
      .next { s with txlog := s.txlog ++ [s.par.endC], idx := 0, seq := if s.len = 0 then .e3 else .e1 }) ∧
    (∀ b, s.seq = .e1 → s.idx.toNat + 1 ≤ s.par.bufSize.val → s.buf.get s.idx.toNat = some b →
      exec (.encode s.len off) s =
        if b = s.par.endC then
          .next { s with txlog := s.txlog ++ [s.par.escC], sub := s.par.escEnd, seq := .e2 }
        else if b = s.par.escC then
          .next { s with txlog := s.txlog ++ [s.par.escC], sub := s.par.escEsc, seq := .e2 }
        else
          .next { s with
            txlog := s.txlog ++ [b], idx := s.idx + 1
            seq := if (s.idx + 1).toNat = s.len.toNat then .e3 else .e1 }) ∧
    (s.seq = .e2 → exec (.encode s.len off) s =
      .next { s with
        txlog := s.txlog ++ [s.sub], idx := s.idx + 1
        seq := if (s.idx + 1).toNat = s.len.toNat then .e3 else .e1 }) ∧
    (s.seq = .e3 → exec (.encode s.len off) s =
      .next { s with
        txlog := s.txlog ++ [s.par.endC], res := BitVec.ofNat 16 s.len.toNat, busy := false, seq := .idle })

/-- What the transmit rows send and where they leave `IDX`, `SUB` and `SEQ`; each next state is given whole, so
nothing else changes. For the payload byte the row stands for this is 42_encoder R160 and 30_encoding R81; that at E1
a row acts whatever `BUF[IDX]` holds, `TX_DATA` for `END` and `ESC` too, and that at E2 either escape row sends `SUB`,
is the model's choice (log 20). -/
def Obligations.TransmitRowsSend : Prop :=
  ∀ s : State,
    (s.seq = .e0 → exec .txDelimiter s =
      .next { s with txlog := s.txlog ++ [s.par.endC], idx := 0, seq := if s.len = 0 then .e3 else .e1 }) ∧
    (s.seq = .e3 → exec .txDelimiter s =
      .next { s with txlog := s.txlog ++ [s.par.endC], res := zext16 s.len, busy := false, seq := .idle }) ∧
    (s.seq = .e1 → exec .txEscapeEnd s =
      .next { s with txlog := s.txlog ++ [s.par.escC], sub := s.par.escEnd, seq := .e2 }) ∧
    (s.seq = .e1 → exec .txEscapeEsc s =
      .next { s with txlog := s.txlog ++ [s.par.escC], sub := s.par.escEsc, seq := .e2 }) ∧
    (∀ i, s.seq = .e2 → i = .txEscapeEnd ∨ i = .txEscapeEsc → exec i s =
      .next { s with
        txlog := s.txlog ++ [s.sub], idx := s.idx + 1
        seq := if (s.idx + 1).toNat = s.len.toNat then .e3 else .e1 }) ∧
    (∀ b, s.seq = .e1 → exec (.txData b) s =
      .next { s with
        txlog := s.txlog ++ [b], idx := s.idx + 1
        seq := if (s.idx + 1).toNat = s.len.toNat then .e3 else .e1 })

/-- 42_encoder R165, 20_memory R67: the frame of the transmit rows and of ENCODE's own steps: operands, `MODE`, `CNT`,
`CRC`, `RCRC`, the receive side, the detector and the parameters are unchanged, and every byte of `BUF` reads as
before. That the rows act in every state is the model's choice (log 20). -/
def Obligations.TransmitFrame : Prop :=
  ∀ (s t : State) (i : Instr),
    (i = .txDelimiter ∨ i = .txEscapeEnd ∨ i = .txEscapeEsc ∨ (∃ b, i = .txData b) ∨
      (s.seq ≠ .idle ∧ ∃ len off, i = .encode len off)) →
    exec i s = .next t →
    t.par = s.par ∧ t.op = s.op ∧ t.len = s.len ∧ t.off = s.off ∧ t.mode = s.mode ∧ t.cnt = s.cnt ∧ t.crc = s.crc ∧
    t.rcrc = s.rcrc ∧ t.rxs = s.rxs ∧ t.polls = s.polls ∧ t.draws = s.draws ∧ t.det = s.det ∧ t.inputs = s.inputs ∧
    t.hostRead = s.hostRead ∧ t.resetHeld = s.resetHeld ∧ ∀ a, t.buf.get a = s.buf.get a

/-- 20_memory R51, 60_exceptions R252: the read of E1 faults at an index the buffer does not have, and on a byte nothing
has written since reset. -/
def Obligations.EncodeReadFaults : Prop :=
  ∀ (s : State) (off : Byte), s.seq = .e1 →
    (s.par.bufSize.val ≤ s.idx.toNat → exec (.encode s.len off) s = .fault .bufBounds) ∧
    (s.idx.toNat < s.par.bufSize.val → s.buf.get s.idx.toNat = none →
      exec (.encode s.len off) s = .fault .unwrittenRead)

/-- 42_encoder R161, R162: ENCODE of `n` bytes, `k` of them `END` or `ESC`, takes `n + k + 2` steps, each of which
appends the next character of the frame of those bytes to `TXLOG`; the frame is `n + k + 2` characters, and the last
step completes with `LEN`; `BUF`, the operands and the receive side are unchanged. -/
def Obligations.EncodeSendsFrame : Prop :=
  ∀ (s : State) (payload : List Byte), s.par.ok = true → s.seq = .e0 → s.op = 1 → s.inputs = [] →
    payload.length = s.len.toNat → s.len.toNat ≤ s.par.bufSize.val → s.holds 0 payload →
    (wireFrame s.par payload).length = payload.length + escapedCount s.par payload + 2 ∧
    (∀ j, j ≤ payload.length + escapedCount s.par payload + 2 →
      ∃ u, run j s = .next u ∧ u.txlog = s.txlog ++ (wireFrame s.par payload).take j) ∧
    ∃ t, run (payload.length + escapedCount s.par payload + 2) s = .next t ∧
      t.txlog = s.txlog ++ wireFrame s.par payload ∧ t.res = zext16 s.len ∧ t.busy = false ∧ t.seq = .idle ∧
      t.buf = s.buf ∧ t.op = s.op ∧ t.len = s.len ∧ t.off = s.off ∧ t.rxs = s.rxs ∧ t.mode = s.mode

/-- 42_encoder R163 (its first sentence), 30_encoding R83: between the two delimiters of a frame no character is `END`,
and the frame of `n` bytes, `k` of them escaped, is `n + k + 2` characters. -/
def Obligations.FrameHasEndOnlyAtItsEnds : Prop :=
  ∀ (p : Params) (payload : List Byte), p.ok = true →
    ∃ inner, wireFrame p payload = p.endC :: inner ++ [p.endC] ∧ p.endC ∉ inner ∧
      (wireFrame p payload).length = payload.length + escapedCount p payload + 2

/-! ## VERIFY -/

/-- 44_crc_verify R191: VERIFY proceeds to V1 exactly when `LEN >= 1` and `OFF + 2 <= LEN`, exact; otherwise it completes
with 0 at once and neither reads nor writes the buffer. `LEN == 1` and `OFF >= 254` always fail; `LEN == 2`, `OFF == 0`
passes. -/
def Obligations.VerifyPreconditionExact : Prop :=
  (∀ s : State, s.seq = .v0 →
    (1 ≤ s.len.toNat ∧ s.off.toNat + 2 ≤ s.len.toNat →
      exec (.verify s.len s.off) s = .next { s with seq := .v1 }) ∧
    (¬ (1 ≤ s.len.toNat ∧ s.off.toNat + 2 ≤ s.len.toNat) →
      exec (.verify s.len s.off) s = .next { s with res := 0, busy := false, seq := .idle })) ∧
  (∀ off, verifyPrecondition 1 off = false) ∧
  (∀ len off : Byte, 254 ≤ off.toNat → verifyPrecondition len off = false) ∧
  verifyPrecondition 2 0 = true

/-- 44_crc_verify R190 steps V1 to V4, 20_memory R53: V1 copies the field to `RCRC` in the byte order, V2 zeroes it and
clears `CRC` and `IDX`, V3 folds `BUF[IDX]`, V4 completes with the CRC on a match and 0 otherwise. Each next state is
given whole. -/
def Obligations.VerifySteps : Prop :=
  ∀ s : State,
    (∀ lo hi, s.seq = .v1 → s.off.toNat + 2 ≤ s.par.bufSize.val → s.buf.get s.off.toNat = some lo →
      s.buf.get (s.off.toNat + 1) = some hi →
      exec (.verify s.len s.off) s =
        .next { s with rcrc := (match s.par.order with | .le => hi ++ lo | .be => lo ++ hi), seq := .v2 }) ∧
    (s.seq = .v2 → s.off.toNat + 2 ≤ s.par.bufSize.val →
      exec (.verify s.len s.off) s =
        .next { s with
          buf := (s.buf.set s.off.toNat 0).set (s.off.toNat + 1) 0, crc := 0, idx := 0, seq := .v3 }) ∧
    (∀ b, s.seq = .v3 → s.idx.toNat + 1 ≤ s.par.bufSize.val → s.buf.get s.idx.toNat = some b →
      exec (.verify s.len s.off) s =
        .next { s with
          crc := crc16Update s.par.crcFn s.crc b, idx := s.idx + 1
          seq := if (s.idx + 1).toNat = s.len.toNat then .v4 else .v3 }) ∧
    (s.seq = .v4 → exec (.verify s.len s.off) s =
      .next { s with res := if s.crc = s.rcrc then s.crc else 0, busy := false, seq := .idle })

/-- 44_crc_verify R193, R196, 20_memory R67: the frame of VERIFY's steps: operands, `MODE`, `CNT`, `SUB`, both sides of
the transport, the detector and the parameters are unchanged, and so is every byte of `BUF` outside the field, which
only V2 writes. -/
def Obligations.VerifyFrame : Prop :=
  ∀ (s t : State) (len off : Byte), s.seq ≠ .idle → exec (.verify len off) s = .next t →
    t.par = s.par ∧ t.op = s.op ∧ t.len = s.len ∧ t.off = s.off ∧ t.mode = s.mode ∧ t.cnt = s.cnt ∧ t.sub = s.sub ∧
    t.txlog = s.txlog ∧ t.rxs = s.rxs ∧ t.polls = s.polls ∧ t.draws = s.draws ∧ t.det = s.det ∧
    t.inputs = s.inputs ∧ t.hostRead = s.hostRead ∧ t.resetHeld = s.resetHeld ∧
    (∀ a, a ≠ s.off.toNat → a ≠ s.off.toNat + 1 → t.buf.get a = s.buf.get a) ∧
    (s.seq ≠ .v2 → ∀ a, t.buf.get a = s.buf.get a)

/-- 20_memory R51, 60_exceptions R252: where VERIFY's accesses fault: the field outside the buffer at V1 and V2, an
index outside it at V3, a byte nothing has written since reset at V1 and V3. -/
def Obligations.VerifyFaults : Prop :=
  ∀ s : State,
    (s.seq = .v1 ∨ s.seq = .v2 → s.par.bufSize.val < s.off.toNat + 2 →
      exec (.verify s.len s.off) s = .fault .bufBounds) ∧
    (s.seq = .v1 → s.off.toNat + 2 ≤ s.par.bufSize.val →
      s.buf.get s.off.toNat = none ∨ s.buf.get (s.off.toNat + 1) = none →
      exec (.verify s.len s.off) s = .fault .unwrittenRead) ∧
    (s.seq = .v3 → s.par.bufSize.val ≤ s.idx.toNat → exec (.verify s.len s.off) s = .fault .bufBounds) ∧
    (s.seq = .v3 → s.idx.toNat < s.par.bufSize.val → s.buf.get s.idx.toNat = none →
      exec (.verify s.len s.off) s = .fault .unwrittenRead)

/-- 44_crc_verify R190, R192, R193, R194: a VERIFY whose precondition holds takes `LEN + 4` steps; it computes the CRC
of the whole buffer with the field zeroed, completes with it if it equals the field and with 0 otherwise, and leaves the
field zero and every other byte as it was. -/
def Obligations.VerifyWholeOperation : Prop :=
  ∀ (s : State) (data : List Byte) (lo hi : Byte), s.par.ok = true → s.seq = .v0 → s.op = 2 → s.inputs = [] →
    s.off.toNat + 2 ≤ s.len.toNat → s.len.toNat ≤ s.par.bufSize.val → data.length = s.len.toNat →
    s.holds 0 data → data[s.off.toNat]? = some lo → data[s.off.toNat + 1]? = some hi →
    ∃ t, run (s.len.toNat + 4) s = .next t ∧ t.busy = false ∧ t.seq = .idle ∧
      t.res = (if crc16 s.par.crcFn ((data.set s.off.toNat 0).set (s.off.toNat + 1) 0) =
          crcOfBytes s.par.order lo hi then crcOfBytes s.par.order lo hi else 0) ∧
      t.holds 0 ((data.set s.off.toNat 0).set (s.off.toNat + 1) 0) ∧
      (∀ a, a ≠ s.off.toNat → a ≠ s.off.toNat + 1 → t.buf.get a = s.buf.get a) ∧
      t.op = s.op ∧ t.len = s.len ∧ t.off = s.off ∧ t.rxs = s.rxs ∧ t.txlog = s.txlog

/-- 43_crc16_generator R187 (a), for the default function (log 3), and more: if the field holds the CRC of the buffer
with the field zeroed, then VERIFY of the buffer with one byte outside the field changed in any way completes with 0. -/
def Obligations.VerifyDetectsByteChange : Prop :=
  ∀ (s : State) (data : List Byte) (lo hi c : Byte) (j : Nat), s.par.ok = true → s.par.crcFn = .arc →
    s.seq = .v0 → s.op = 2 → s.inputs = [] →
    s.off.toNat + 2 ≤ s.len.toNat → s.len.toNat ≤ s.par.bufSize.val → data.length = s.len.toNat →
    data[s.off.toNat]? = some lo → data[s.off.toNat + 1]? = some hi →
    crc16 .arc ((data.set s.off.toNat 0).set (s.off.toNat + 1) 0) = crcOfBytes s.par.order lo hi →
    j < data.length → j ≠ s.off.toNat → j ≠ s.off.toNat + 1 → data[j]? ≠ some c → s.holds 0 (data.set j c) →
    ∃ t, run (s.len.toNat + 4) s = .next t ∧ t.busy = false ∧ t.res = 0

/-! ## APPEND -/

/-- 45_crc_append R210, R212, 20_memory R53: A0 zeroes the two bytes after the data and clears `CRC` and `IDX`, A1 folds
`BUF[IDX]` up to index `LEN + 1`, A2 stores the CRC there in the byte order and completes with `LEN + 2`. Each next state
is given whole. `OFF` is ignored. -/
def Obligations.AppendSteps : Prop :=
  ∀ (s : State) (off : Byte),
    (s.seq = .a0 → s.len.toNat + 2 ≤ s.par.bufSize.val →
      exec (.append s.len off) s =
        .next { s with
          buf := (s.buf.set s.len.toNat 0).set (s.len.toNat + 1) 0, crc := 0, idx := 0, seq := .a1 }) ∧
    (∀ b, s.seq = .a1 → s.idx.toNat + 1 ≤ s.par.bufSize.val → s.buf.get s.idx.toNat = some b →
      exec (.append s.len off) s =
        .next { s with
          crc := crc16Update s.par.crcFn s.crc b, idx := s.idx + 1
          seq := if (s.idx + 1).toNat = s.len.toNat + 2 then .a2 else .a1 }) ∧
    (s.seq = .a2 → s.len.toNat + 2 ≤ s.par.bufSize.val →
      exec (.append s.len off) s =
        .next { s with
          buf := (s.buf.set s.len.toNat (crcBytes s.par.order s.crc).1).set (s.len.toNat + 1)
            (crcBytes s.par.order s.crc).2
          res := BitVec.ofNat 16 (s.len.toNat + 2), busy := false, seq := .idle })

/-- 45_crc_append R215, 20_memory R67: the frame of APPEND's steps: operands, `MODE`, `CNT`, `RCRC`, `SUB`, both sides of
the transport, the detector and the parameters are unchanged, and so is every byte of `BUF` outside the field at `LEN`,
which A1 does not write. -/
def Obligations.AppendFrame : Prop :=
  ∀ (s t : State) (len off : Byte), s.seq ≠ .idle → exec (.append len off) s = .next t →
    t.par = s.par ∧ t.op = s.op ∧ t.len = s.len ∧ t.off = s.off ∧ t.mode = s.mode ∧ t.cnt = s.cnt ∧
    t.rcrc = s.rcrc ∧ t.sub = s.sub ∧ t.txlog = s.txlog ∧ t.rxs = s.rxs ∧ t.polls = s.polls ∧ t.draws = s.draws ∧
    t.det = s.det ∧ t.inputs = s.inputs ∧ t.hostRead = s.hostRead ∧ t.resetHeld = s.resetHeld ∧
    (∀ a, a ≠ s.len.toNat → a ≠ s.len.toNat + 1 → t.buf.get a = s.buf.get a) ∧
    (s.seq = .a1 → ∀ a, t.buf.get a = s.buf.get a)

/-- 45_crc_append R210, 20_memory R51, 60_exceptions R252: where APPEND's accesses fault: `BufBounds` at A0 and A2 where
the two bytes after the data do not exist, before anything is written, and at A1 at an index the buffer does not have;
`UnwrittenRead` at A1 on a byte nothing has written since reset. -/
def Obligations.AppendFaults : Prop :=
  ∀ (s : State) (off : Byte),
    (s.seq = .a0 ∨ s.seq = .a2 → s.par.bufSize.val < s.len.toNat + 2 →
      exec (.append s.len off) s = .fault .bufBounds) ∧
    (s.seq = .a1 → s.par.bufSize.val ≤ s.idx.toNat → exec (.append s.len off) s = .fault .bufBounds) ∧
    (s.seq = .a1 → s.idx.toNat < s.par.bufSize.val → s.buf.get s.idx.toNat = none →
      exec (.append s.len off) s = .fault .unwrittenRead)

/-- 45_crc_append R210, R212, R213: APPEND of `n` data bytes takes `n + 4` steps, stores the CRC of the data and two
zero bytes in the two bytes after the data, in the byte order, completes with `n + 2`, and changes no other byte. -/
def Obligations.AppendWholeOperation : Prop :=
  ∀ (s : State) (data : List Byte), s.par.ok = true → s.seq = .a0 → s.op = 3 → s.inputs = [] →
    data.length = s.len.toNat → s.len.toNat + 2 ≤ s.par.bufSize.val → s.holds 0 data →
    ∃ t, run (data.length + 4) s = .next t ∧ t.busy = false ∧ t.seq = .idle ∧ t.res.toNat = data.length + 2 ∧
      t.holds 0 (data ++ [(crcBytes s.par.order (crc16 s.par.crcFn (data ++ [0, 0]))).1,
        (crcBytes s.par.order (crc16 s.par.crcFn (data ++ [0, 0]))).2]) ∧
      (∀ a, a ≠ data.length → a ≠ data.length + 1 → t.buf.get a = s.buf.get a) ∧
      t.op = s.op ∧ t.len = s.len ∧ t.off = s.off ∧ t.rxs = s.rxs ∧ t.txlog = s.txlog

/-- 44_crc_verify R195: `APPEND n` followed by `VERIFY n+2, n` completes with the CRC of the data and two zero bytes,
which is the failure value exactly when that CRC is zero; for either byte order and any CRC step function. The reset input
is not asserted (no state that meets the invariant runs APPEND while it is). That `exec` of VERIFY at IDLE issues it, that
is, writes the operand registers and `GO` as R93 lists, is the model's choice (log 14). -/
def Obligations.AppendThenVerify : Prop :=
  ∀ (s : State) (data : List Byte), s.par.ok = true → s.resetHeld = false → s.seq = .a0 → s.op = 3 → s.inputs = [] →
    data.length = s.len.toNat → s.len.toNat + 2 ≤ s.par.bufSize.val → s.holds 0 data →
    ∃ t u v, run (data.length + 4) s = .next t ∧ exec (.verify (s.len + 2) s.len) t = .next u ∧
      run (data.length + 6) u = .next v ∧ v.busy = false ∧ v.res = crc16 s.par.crcFn (data ++ [0, 0])

/-! ## The CRC-16 generator -/

/-- 43_crc16_generator R184, R185, R186: `CRCCLR` clears `CRC`, `CRCUPD` folds one byte, and a clear followed by the
updates of a byte sequence leaves `crc16` of it; nothing else changes. -/
def Obligations.CrcRowsComputeCrc16 : Prop :=
  ∀ (s : State) (bytes : List Byte),
    exec .crcclr s = .next { s with crc := 0 } ∧
    (∀ b, exec (.crcupd b) s = .next { s with crc := crc16Update s.par.crcFn s.crc b }) ∧
    execAll (.crcclr :: bytes.map .crcupd) s = .next { s with crc := crc16 s.par.crcFn bytes }

/-- 43_crc16_generator R187 (b), for the default function (log 3): every all-zero sequence has CRC zero. -/
def Obligations.DefaultCrcOfZerosIsZero : Prop :=
  ∀ n : Nat, crc16 .arc (List.replicate n 0) = 0

/-- 43_crc16_generator R187 (a), for the default function (log 3), and more: changing one byte of a sequence in any way
changes its CRC, so flipping one bit does. -/
def Obligations.DefaultCrcSeesOneByteChange : Prop :=
  ∀ (before after : List Byte) (b c : Byte), b ≠ c →
    crc16 .arc (before ++ b :: after) ≠ crc16 .arc (before ++ c :: after)

/-! ## The detector -/

/-- 40_delimiter_detector R115: for every character, both modes and every count exactly one of the five cases holds:
`frame_end`; `noise`; NORMAL and `is_esc`; NORMAL and neither `is_end` nor `is_esc`; ESCAPED. -/
def Obligations.DetectorCasesAreExclusive : Prop :=
  ∀ (p : Params) (m : Mode) (cnt : BitVec 8) (c : Byte),
    [(detect p m cnt c).frameEnd, (detect p m cnt c).noise, m == .normal && (detect p m cnt c).isEsc,
      m == .normal && !(detect p m cnt c).isEnd && !(detect p m cnt c).isEsc, m == .escaped].count true = 1

/-- 40_delimiter_detector R111, R112, R114: what `CLASSIFY`, `BOUNDARY` and `XLATE` compute, onto the detector's lines
(log 15), leaving all else; one after the other they give every line. -/
def Obligations.DetectorRowsDriveLines : Prop :=
  ∀ (s : State) (c : Byte),
    exec (.classify c) s = .next { s with det := { s.det with
      isEnd := decide (c = s.par.endC), isEsc := decide (c ≠ s.par.endC ∧ c = s.par.escC) } } ∧
    exec (.boundary c) s = .next { s with det := { s.det with
      frameEnd := decide (s.mode = .normal ∧ c = s.par.endC ∧ 0 < s.cnt.toNat)
      noise := decide (s.mode = .normal ∧ c = s.par.endC ∧ s.cnt.toNat = 0) } } ∧
    exec (.xlate c) s = .next { s with det := { s.det with
      xl := if c = s.par.escEnd then s.par.endC else if c = s.par.escEsc then s.par.escC else c } } ∧
    execAll [.classify c, .boundary c, .xlate c] s = .next { s with det := detect s.par s.mode s.cnt c }

/-! ## The host interface -/

/-- 46_host_interface R230: a `GO` write while idle with `OP` 0 to 3 sets `BUSY` and the first step of the operation;
nothing else changes. That it starts also where nothing has written `OP` or an operand since reset, where R230 and R252
give `UnwrittenRead` (T-H9), is the model's choice (log 6). While the reset input is asserted, where 70_reset_and_hazards
R280 keeps `BUSY` 0 and IDLE, such a write starts nothing and changes nothing (log 26). -/
def Obligations.GoStartsOperation : Prop :=
  ∀ s : State, s.busy = false →
    (s.resetHeld = false →
      (s.op = 0 → exec .go s = .next { s with busy := true, seq := .d0 }) ∧
      (s.op = 1 → exec .go s = .next { s with busy := true, seq := .e0 }) ∧
      (s.op = 2 → exec .go s = .next { s with busy := true, seq := .v0 }) ∧
      (s.op = 3 → exec .go s = .next { s with busy := true, seq := .a0 })) ∧
    (s.resetHeld = true → s.op.toNat < 4 → exec .go s = .next s)

/-- 46_host_interface R234, R235, 30_encoding R90: `GO` while busy is refused, `GO` with `OP` 4 to 7 is refused; the
reserved command never answers a next state. -/
def Obligations.GoRefusedWhenBusyOrReserved : Prop :=
  ∀ (s : State) (op : BitVec 3) (len off : Byte),
    (s.busy = true → exec .go s = .refused .hostWhileBusy) ∧
    (s.busy = false → 4 ≤ s.op.toNat → exec .go s = .refused .reservedOp) ∧
    (s.busy = false → exec (.reserved op len off) s = .refused .reservedOp) ∧
    (s.busy = true → exec (.reserved op len off) s = .refused .hostWhileBusy)

/-- 30_encoding R93, 46_host_interface R230, R234: a command issued at IDLE writes its operand registers (`OFF` only
for VERIFY) and starts; while another command is in progress it is refused (log 14). While the reset input is asserted
nothing starts, and the registers it writes hold some value (70_reset_and_hazards R280; log 26). -/
def Obligations.CommandsIssuedFromIdle : Prop :=
  ∀ (s : State) (len off : Byte),
    (s.seq = .idle → s.busy = false → s.resetHeld = false →
      exec (.decode len off) s = .next { s with op := 0, len := len, busy := true, seq := .d0 } ∧
      exec (.encode len off) s = .next { s with op := 1, len := len, busy := true, seq := .e0 } ∧
      exec (.verify len off) s = .next { s with op := 2, len := len, off := off, busy := true, seq := .v0 } ∧
      exec (.append len off) s = .next { s with op := 3, len := len, busy := true, seq := .a0 }) ∧
    (s.seq = .idle → s.busy = false → s.resetHeld = true →
      (∀ i, i = .decode len off ∨ i = .encode len off ∨ i = .append len off →
        ∃ o l n, exec i s = .next { s with op := o, len := l, draws := n }) ∧
      ∃ o l f n, exec (.verify len off) s = .next { s with op := o, len := l, off := f, draws := n }) ∧
    (s.seq ≠ .idle →
      (s.seq.opCode ≠ some 0 → exec (.decode len off) s = .refused .hostWhileBusy) ∧
      (s.seq.opCode ≠ some 1 → exec (.encode len off) s = .refused .hostWhileBusy) ∧
      (s.seq.opCode ≠ some 2 → exec (.verify len off) s = .refused .hostWhileBusy) ∧
      (s.seq.opCode ≠ some 3 → exec (.append len off) s = .refused .hostWhileBusy))

/-- 46_host_interface R232, 10_state R23 to R28: while idle a write of `OP`, `LEN` or `OFF` stores the low bits that
fit, and a register read gives the register, zero-extended, `STATUS` as 0, `GO` some value. That a read of `OP`,
`LEN`, `OFF` or `RES` answers also where nothing has written the register since reset, where R252 gives
`UnwrittenRead` (T-H8), is the model's choice (log 6); where the value read is seen is log 16. While the reset input
is asserted, where 70_reset_and_hazards R280 leaves every register an unspecified value, a written register holds some
value (log 26). -/
def Obligations.HostRegistersWhileIdle : Prop :=
  ∀ (s : State) (v : Word), s.busy = false →
    (s.resetHeld = false →
      hostAccess (.writeReg 0 v) s = .next { s with op := v.extractLsb' 0 3 } ∧
      hostAccess (.writeReg 1 v) s = .next { s with len := v.extractLsb' 0 8 } ∧
      hostAccess (.writeReg 2 v) s = .next { s with off := v.extractLsb' 0 8 }) ∧
    (s.resetHeld = true →
      (∃ w n, hostAccess (.writeReg 0 v) s = .next { s with op := w, draws := n }) ∧
      (∃ w n, hostAccess (.writeReg 1 v) s = .next { s with len := w, draws := n }) ∧
      (∃ w n, hostAccess (.writeReg 2 v) s = .next { s with off := w, draws := n })) ∧
    hostAccess (.readReg 0) s = .next { s with hostRead := some (BitVec.ofNat 16 s.op.toNat) } ∧
    hostAccess (.readReg 1) s = .next { s with hostRead := some (BitVec.ofNat 16 s.len.toNat) } ∧
    hostAccess (.readReg 2) s = .next { s with hostRead := some (BitVec.ofNat 16 s.off.toNat) } ∧
    hostAccess (.readReg 4) s = .next { s with hostRead := some 0 } ∧
    hostAccess (.readReg 5) s = .next { s with hostRead := some s.res } ∧
    (∃ w n, hostAccess (.readReg 3) s = .next { s with hostRead := some w, draws := n })

/-- The model's choice (log 17), beside 10_state R26, R27, R28 and 46_host_interface R232: the idle accesses the two
statements around this one do not cover. A write to register 3 is `GO`; a write to `STATUS` or `RES`, which are read
only, is refused `hostReadOnly`; an access to register 6 or 7, which do not exist, is refused `noSuchRegister`. -/
def Obligations.OtherHostRegisterAccesses : Prop :=
  ∀ (s : State) (v : Word), s.busy = false →
    hostAccess (.writeReg 3 v) s = exec .go s ∧
    (∀ n : BitVec 3, n = 4 ∨ n = 5 → hostAccess (.writeReg n v) s = .refused .hostReadOnly) ∧
    (∀ n : BitVec 3, n = 6 ∨ n = 7 → hostAccess (.writeReg n v) s = .refused .noSuchRegister ∧
      hostAccess (.readReg n) s = .refused .noSuchRegister)

/-- 46_host_interface R232, 60_exceptions R252: while idle the host reads and writes any `BUF[i]` that exists; a byte
nothing has written faults `UnwrittenRead`, an index at or beyond `BUF_SIZE` is refused. A write changes no other
byte. While the reset input is asserted, where 70_reset_and_hazards R280 leaves every byte an unspecified value, a
write changes nothing (log 26). -/
def Obligations.HostBufferWhileIdle : Prop :=
  ∀ (s : State) (i v : Byte), s.busy = false →
    (i.toNat < s.par.bufSize.val →
      (s.resetHeld = false →
        ∃ t, hostAccess (.writeBuf i v) s = .next t ∧ t = { s with buf := t.buf } ∧ t.buf.get i.toNat = some v ∧
          ∀ a, a ≠ i.toNat → t.buf.get a = s.buf.get a) ∧
      (s.resetHeld = true → hostAccess (.writeBuf i v) s = .next s) ∧
      (∀ b, s.buf.get i.toNat = some b →
        hostAccess (.readBuf i) s = .next { s with hostRead := some (BitVec.ofNat 16 b.toNat) }) ∧
      (s.buf.get i.toNat = none → hostAccess (.readBuf i) s = .fault .unwrittenRead)) ∧
    (s.par.bufSize.val ≤ i.toNat →
      hostAccess (.writeBuf i v) s = .refused .hostBufBounds ∧
      hostAccess (.readBuf i) s = .refused .hostBufBounds)

/-- 46_host_interface R233, R234, 10_state R27: while busy the host reads `STATUS` as 1, and every other access is
refused. -/
def Obligations.HostAccessWhileBusy : Prop :=
  ∀ (s : State) (a : HostAccess), s.busy = true →
    (a = .readReg 4 → hostAccess a s = .next { s with hostRead := some 1 }) ∧
    (a ≠ .readReg 4 → hostAccess a s = .refused .hostWhileBusy)

/-- 70_reset_and_hazards R280, R281, 10_state R40, R36: asserting the reset input clears `BUSY`, sets IDLE and NORMAL,
leaves the transport alone, does not write `RES` when it cuts an operation short, and leaves no byte of `BUF` with a
value; what the other registers hold is free (log 8). Asserting it again changes nothing, and releasing it changes its
level only (log 26). -/
def Obligations.ResetInputStopsOperation : Prop :=
  ∀ (s : State) (rest : List Input), s.par.ok = true →
    (s.inputs = .assertReset :: rest → s.resetHeld = false →
      ∃ t, step s = .next t ∧ t.resetHeld = true ∧ t.busy = false ∧ t.seq = .idle ∧ t.mode = .normal ∧
        t.rxs = s.rxs ∧ t.txlog = s.txlog ∧ t.par = s.par ∧ t.inputs = rest ∧ (s.busy = true → t.res = s.res) ∧
        ∀ a, t.buf.get a = none) ∧
    (s.inputs = .assertReset :: rest → s.resetHeld = true → step s = .next { s with inputs := rest }) ∧
    (s.inputs = .releaseReset :: rest → step s = .next { s with inputs := rest, resetHeld := false })

/-- 70_reset_and_hazards R280: while the reset input is asserted, and at the moment it is released, `BUSY` is 0, `SEQ` is
IDLE and `MODE` is NORMAL, no byte of `BUF` has a value, nothing is sent and nothing is taken, whatever the host, the
transport and the reset input do (what the host's accesses then do: log 26). A `STATUS` read answers 0. Only a release
ends it. From a state that meets the invariant. -/
def Obligations.BlockStaysIdleWhileResetAsserted : Prop :=
  ∀ s t : State, s.Inv → s.resetHeld = true → step s = .next t →
    t.busy = false ∧ t.seq = .idle ∧ t.mode = .normal ∧ (∀ a, t.buf.get a = none) ∧ t.txlog = s.txlog ∧
    (t.rxs = s.rxs ∨ ∃ c rest, s.inputs = .arrive c :: rest ∧ t.rxs = s.rxs ++ [c]) ∧
    (t.resetHeld = true ∨ ∃ rest, s.inputs = .releaseReset :: rest) ∧
    (∀ rest, s.inputs = .host (.readReg 4) :: rest → t.hostRead = some 0)

/-! ## Memory -/

/-- 20_memory R51, R52, R53: a one-byte write within the buffer is read back and changes no other byte; a two-byte
write is read back whole in either byte order, puts the low byte at the lower index under `LE` and at the higher under
`BE`, and changes no other byte; both keep the canonical form. -/
def Obligations.BufferReadsAfterWrites : Prop :=
  ∀ (s : State) (a : Nat) (b : Byte) (v : Word),
    (a + 1 ≤ s.par.bufSize.val → ∃ t, s.memWrite1 a b = .ok t ∧ t.memRead1 a = .ok b ∧
      (∀ j, j ≠ a → t.buf.get j = s.buf.get j) ∧
      (Memory.wf s.par.bufSize.val s.buf = true → Memory.wf t.par.bufSize.val t.buf = true)) ∧
    (a + 2 ≤ s.par.bufSize.val → ∃ t, s.memWrite2 a v = .ok t ∧ t.memRead2 a = .ok v ∧
      (s.par.order = .le → t.buf.get a = some (v.extractLsb' 0 8) ∧ t.buf.get (a + 1) = some (v.extractLsb' 8 8)) ∧
      (s.par.order = .be → t.buf.get a = some (v.extractLsb' 8 8) ∧ t.buf.get (a + 1) = some (v.extractLsb' 0 8)) ∧
      (∀ j, j ≠ a → j ≠ a + 1 → t.buf.get j = s.buf.get j) ∧
      (Memory.wf s.par.bufSize.val s.buf = true → Memory.wf t.par.bufSize.val t.buf = true)) ∧
    (s.par.bufSize.val < a + 1 → s.memWrite1 a b = .error .bufBounds ∧ s.memRead1 a = .error .bufBounds) ∧
    (s.par.bufSize.val < a + 2 → s.memWrite2 a v = .error .bufBounds ∧ s.memRead2 a = .error .bufBounds)

/-! ## The whole machine -/

/-- 10_state R40: the state after reset has `BUSY` 0, IDLE, NORMAL, and meets the invariant; its parameters satisfy
R6. -/
def Obligations.ResetStateMeetsInvariant : Prop :=
  State.reset.Inv ∧ State.reset.busy = false ∧ State.reset.seq = .idle ∧ State.reset.mode = .normal ∧
    State.reset.par.ok = true

/-- 10_state R29 to R33, 20_memory R51: every step keeps the invariant: IDLE exactly when not BUSY, the step label of
the operation `OP` selects, `BUF` in canonical form, ESCAPED only inside D1, counters and fields in range, and IDLE
with no byte of `BUF` valued while the reset input is asserted (70_reset_and_hazards R280). -/
def Obligations.StepKeepsInvariant : Prop :=
  ∀ s t : State, s.Inv → step s = .next t → t.Inv

/-- 10_state R39: no step changes a parameter. -/
def Obligations.ParametersNeverChange : Prop :=
  ∀ s t : State, step s = .next t → t.par = s.par

/-- 20_memory R65: while an operation runs, no step but the assertion of the reset input changes `OP`, `LEN` or `OFF`. -/
def Obligations.OperandsStableWhileBusy : Prop :=
  ∀ s t : State, s.busy = true → step s = .next t → (∀ rest, s.inputs ≠ .assertReset :: rest) →
    t.op = s.op ∧ t.len = s.len ∧ t.off = s.off

/-- 46_host_interface R231: `complete` is the only writer of `RES`: a step but the assertion of the reset input that
changes `RES` is a step of a running operation and ends it. -/
def Obligations.ResultWrittenOnlyOnCompletion : Prop :=
  ∀ s t : State, step s = .next t → (∀ rest, s.inputs ≠ .assertReset :: rest) → t.res ≠ s.res →
    s.seq ≠ .idle ∧ t.busy = false ∧ t.seq = .idle

/-- 20_memory R62, R63: a step sends at most one character, behind those already sent, and only a step of ENCODE
sends. -/
def Obligations.OnlyEncodeSends : Prop :=
  ∀ s t : State, step s = .next t →
    t.txlog = s.txlog ∨
    ∃ c, t.txlog = s.txlog ++ [c] ∧ s.op = 1 ∧ (s.seq = .e0 ∨ s.seq = .e1 ∨ s.seq = .e2 ∨ s.seq = .e3)

/-- 20_memory R61, R63: a step takes at most one character, the oldest, and only DECODE step D1 takes; the only other
change of the receive stream is an arrival behind it. -/
def Obligations.OnlyDecodeTakesCharacters : Prop :=
  ∀ s t : State, step s = .next t →
    t.rxs = s.rxs ∨
    (∃ c, s.rxs = c :: t.rxs ∧ s.op = 0 ∧ s.seq = .d1) ∨
    (∃ c rest, s.inputs = .arrive c :: rest ∧ t.rxs = s.rxs ++ [c])

/-- 20_memory R57: a byte of `BUF` changes only by the block while `BUSY`, by a host write while not `BUSY`, or at the
assertion of the reset input; ENCODE changes none. From a state that meets the invariant. -/
def Obligations.BufferOwnership : Prop :=
  ∀ (s t : State) (a : Nat), s.Inv → step s = .next t → t.buf.get a ≠ s.buf.get a →
    (s.busy = true ∧ s.op ≠ 1 ∧ (s.inputs = [] ∨ ∃ rest, s.inputs = .quiet :: rest)) ∨
    (s.busy = false ∧ ∃ i v rest, s.inputs = .host (.writeBuf i v) :: rest ∧ a = i.toNat) ∨
    (∃ rest, s.inputs = .assertReset :: rest)

/-- 20_memory R68, 46_host_interface R237: with operands in the stated ranges a running block, in a state that meets the
invariant, never faults `BufBounds`; and it is never refused: it takes its next step or faults. -/
def Obligations.RunningBlockStepsWithinBounds : Prop :=
  ∀ s : State, s.Inv → s.seq ≠ .idle →
    (∀ r, exec s.command s ≠ .refused r) ∧
    ((s.op = 3 → s.len.toNat + 2 ≤ s.par.bufSize.val) → (s.op ≠ 3 → s.len.toNat ≤ s.par.bufSize.val) →
      exec s.command s ≠ .fault .bufBounds)

/-- 10_state R22: the working registers left over by an earlier operation are never observed: two states that differ only
in them (and in the detector's lines), idle or at the first step of an operation, answer every run alike, in states that
again differ in nothing else. Whatever comes from outside. -/
def Obligations.LeftoverRegistersNeverObserved : Prop :=
  ∀ (s t : State) (k : Nat), s.agree t → s.seq.fresh = true → agreeResults (run k s) (run k t)
end

