-- ==== Sys2Proof/Laws/State.lean ====
section
/-! SUPPORT. One lemma per field per named update of the state, so that no proof unfolds a record update. -/

namespace Sys2Proof.Machine

/-! ## `State.complete` -/

@[simp] theorem State.complete_par (s : State) (v : Word) : (s.complete v).par = s.par := rfl
@[simp] theorem State.complete_op (s : State) (v : Word) : (s.complete v).op = s.op := rfl
@[simp] theorem State.complete_len (s : State) (v : Word) : (s.complete v).len = s.len := rfl
@[simp] theorem State.complete_off (s : State) (v : Word) : (s.complete v).off = s.off := rfl
@[simp] theorem State.complete_busy (s : State) (v : Word) : (s.complete v).busy = false := rfl
@[simp] theorem State.complete_res (s : State) (v : Word) : (s.complete v).res = v := rfl
@[simp] theorem State.complete_mode (s : State) (v : Word) : (s.complete v).mode = s.mode := rfl
@[simp] theorem State.complete_cnt (s : State) (v : Word) : (s.complete v).cnt = s.cnt := rfl
@[simp] theorem State.complete_idx (s : State) (v : Word) : (s.complete v).idx = s.idx := rfl
@[simp] theorem State.complete_crc (s : State) (v : Word) : (s.complete v).crc = s.crc := rfl
@[simp] theorem State.complete_rcrc (s : State) (v : Word) : (s.complete v).rcrc = s.rcrc := rfl
@[simp] theorem State.complete_sub (s : State) (v : Word) : (s.complete v).sub = s.sub := rfl
@[simp] theorem State.complete_seq (s : State) (v : Word) : (s.complete v).seq = .idle := rfl
@[simp] theorem State.complete_buf (s : State) (v : Word) : (s.complete v).buf = s.buf := rfl
@[simp] theorem State.complete_rxs (s : State) (v : Word) : (s.complete v).rxs = s.rxs := rfl
@[simp] theorem State.complete_txlog (s : State) (v : Word) : (s.complete v).txlog = s.txlog := rfl
@[simp] theorem State.complete_resetHeld (s : State) (v : Word) : (s.complete v).resetHeld = s.resetHeld := rfl
@[simp] theorem State.complete_det (s : State) (v : Word) : (s.complete v).det = s.det := rfl
@[simp] theorem State.complete_inputs (s : State) (v : Word) : (s.complete v).inputs = s.inputs := rfl
@[simp] theorem State.complete_polls (s : State) (v : Word) : (s.complete v).polls = s.polls := rfl
@[simp] theorem State.complete_draws (s : State) (v : Word) : (s.complete v).draws = s.draws := rfl
@[simp] theorem State.complete_hostRead (s : State) (v : Word) : (s.complete v).hostRead = s.hostRead := rfl

/-! ## `State.start` -/

@[simp] theorem State.start_par (s : State) (q : Seq) : (s.start q).par = s.par := rfl
@[simp] theorem State.start_op (s : State) (q : Seq) : (s.start q).op = s.op := rfl
@[simp] theorem State.start_len (s : State) (q : Seq) : (s.start q).len = s.len := rfl
@[simp] theorem State.start_off (s : State) (q : Seq) : (s.start q).off = s.off := rfl
@[simp] theorem State.start_busy (s : State) (q : Seq) : (s.start q).busy = true := rfl
@[simp] theorem State.start_res (s : State) (q : Seq) : (s.start q).res = s.res := rfl
@[simp] theorem State.start_mode (s : State) (q : Seq) : (s.start q).mode = s.mode := rfl
@[simp] theorem State.start_cnt (s : State) (q : Seq) : (s.start q).cnt = s.cnt := rfl
@[simp] theorem State.start_idx (s : State) (q : Seq) : (s.start q).idx = s.idx := rfl
@[simp] theorem State.start_crc (s : State) (q : Seq) : (s.start q).crc = s.crc := rfl
@[simp] theorem State.start_rcrc (s : State) (q : Seq) : (s.start q).rcrc = s.rcrc := rfl
@[simp] theorem State.start_sub (s : State) (q : Seq) : (s.start q).sub = s.sub := rfl
@[simp] theorem State.start_seq (s : State) (q : Seq) : (s.start q).seq = q := rfl
@[simp] theorem State.start_buf (s : State) (q : Seq) : (s.start q).buf = s.buf := rfl
@[simp] theorem State.start_rxs (s : State) (q : Seq) : (s.start q).rxs = s.rxs := rfl
@[simp] theorem State.start_txlog (s : State) (q : Seq) : (s.start q).txlog = s.txlog := rfl
@[simp] theorem State.start_resetHeld (s : State) (q : Seq) : (s.start q).resetHeld = s.resetHeld := rfl
@[simp] theorem State.start_det (s : State) (q : Seq) : (s.start q).det = s.det := rfl
@[simp] theorem State.start_inputs (s : State) (q : Seq) : (s.start q).inputs = s.inputs := rfl
@[simp] theorem State.start_polls (s : State) (q : Seq) : (s.start q).polls = s.polls := rfl
@[simp] theorem State.start_draws (s : State) (q : Seq) : (s.start q).draws = s.draws := rfl
@[simp] theorem State.start_hostRead (s : State) (q : Seq) : (s.start q).hostRead = s.hostRead := rfl

/-! ## `State.takeInput` -/

@[simp] theorem State.takeInput_par (s : State) : (s.takeInput).par = s.par := rfl
@[simp] theorem State.takeInput_op (s : State) : (s.takeInput).op = s.op := rfl
@[simp] theorem State.takeInput_len (s : State) : (s.takeInput).len = s.len := rfl
@[simp] theorem State.takeInput_off (s : State) : (s.takeInput).off = s.off := rfl
@[simp] theorem State.takeInput_busy (s : State) : (s.takeInput).busy = s.busy := rfl
@[simp] theorem State.takeInput_res (s : State) : (s.takeInput).res = s.res := rfl
@[simp] theorem State.takeInput_mode (s : State) : (s.takeInput).mode = s.mode := rfl
@[simp] theorem State.takeInput_cnt (s : State) : (s.takeInput).cnt = s.cnt := rfl
@[simp] theorem State.takeInput_idx (s : State) : (s.takeInput).idx = s.idx := rfl
@[simp] theorem State.takeInput_crc (s : State) : (s.takeInput).crc = s.crc := rfl
@[simp] theorem State.takeInput_rcrc (s : State) : (s.takeInput).rcrc = s.rcrc := rfl
@[simp] theorem State.takeInput_sub (s : State) : (s.takeInput).sub = s.sub := rfl
@[simp] theorem State.takeInput_seq (s : State) : (s.takeInput).seq = s.seq := rfl
@[simp] theorem State.takeInput_buf (s : State) : (s.takeInput).buf = s.buf := rfl
@[simp] theorem State.takeInput_rxs (s : State) : (s.takeInput).rxs = s.rxs := rfl
@[simp] theorem State.takeInput_txlog (s : State) : (s.takeInput).txlog = s.txlog := rfl
@[simp] theorem State.takeInput_resetHeld (s : State) : (s.takeInput).resetHeld = s.resetHeld := rfl
@[simp] theorem State.takeInput_det (s : State) : (s.takeInput).det = s.det := rfl
@[simp] theorem State.takeInput_inputs (s : State) : (s.takeInput).inputs = s.inputs.tail := rfl
@[simp] theorem State.takeInput_polls (s : State) : (s.takeInput).polls = s.polls := rfl
@[simp] theorem State.takeInput_draws (s : State) : (s.takeInput).draws = s.draws := rfl
@[simp] theorem State.takeInput_hostRead (s : State) : (s.takeInput).hostRead = s.hostRead := rfl

/-! ## `State.observe` -/

@[simp] theorem State.observe_par (s : State) (v : Word) : (s.observe v).par = s.par := rfl
@[simp] theorem State.observe_op (s : State) (v : Word) : (s.observe v).op = s.op := rfl
@[simp] theorem State.observe_len (s : State) (v : Word) : (s.observe v).len = s.len := rfl
@[simp] theorem State.observe_off (s : State) (v : Word) : (s.observe v).off = s.off := rfl
@[simp] theorem State.observe_busy (s : State) (v : Word) : (s.observe v).busy = s.busy := rfl
@[simp] theorem State.observe_res (s : State) (v : Word) : (s.observe v).res = s.res := rfl
@[simp] theorem State.observe_mode (s : State) (v : Word) : (s.observe v).mode = s.mode := rfl
@[simp] theorem State.observe_cnt (s : State) (v : Word) : (s.observe v).cnt = s.cnt := rfl
@[simp] theorem State.observe_idx (s : State) (v : Word) : (s.observe v).idx = s.idx := rfl
@[simp] theorem State.observe_crc (s : State) (v : Word) : (s.observe v).crc = s.crc := rfl
@[simp] theorem State.observe_rcrc (s : State) (v : Word) : (s.observe v).rcrc = s.rcrc := rfl
@[simp] theorem State.observe_sub (s : State) (v : Word) : (s.observe v).sub = s.sub := rfl
@[simp] theorem State.observe_seq (s : State) (v : Word) : (s.observe v).seq = s.seq := rfl
@[simp] theorem State.observe_buf (s : State) (v : Word) : (s.observe v).buf = s.buf := rfl
@[simp] theorem State.observe_rxs (s : State) (v : Word) : (s.observe v).rxs = s.rxs := rfl
@[simp] theorem State.observe_txlog (s : State) (v : Word) : (s.observe v).txlog = s.txlog := rfl
@[simp] theorem State.observe_resetHeld (s : State) (v : Word) : (s.observe v).resetHeld = s.resetHeld := rfl
@[simp] theorem State.observe_det (s : State) (v : Word) : (s.observe v).det = s.det := rfl
@[simp] theorem State.observe_inputs (s : State) (v : Word) : (s.observe v).inputs = s.inputs := rfl
@[simp] theorem State.observe_polls (s : State) (v : Word) : (s.observe v).polls = s.polls := rfl
@[simp] theorem State.observe_draws (s : State) (v : Word) : (s.observe v).draws = s.draws := rfl
@[simp] theorem State.observe_hostRead (s : State) (v : Word) : (s.observe v).hostRead = some v := rfl

/-! ## `State.txSend` -/

@[simp] theorem State.txSend_par (s : State) (c : Byte) : (s.txSend c).par = s.par := rfl
@[simp] theorem State.txSend_op (s : State) (c : Byte) : (s.txSend c).op = s.op := rfl
@[simp] theorem State.txSend_len (s : State) (c : Byte) : (s.txSend c).len = s.len := rfl
@[simp] theorem State.txSend_off (s : State) (c : Byte) : (s.txSend c).off = s.off := rfl
@[simp] theorem State.txSend_busy (s : State) (c : Byte) : (s.txSend c).busy = s.busy := rfl
@[simp] theorem State.txSend_res (s : State) (c : Byte) : (s.txSend c).res = s.res := rfl
@[simp] theorem State.txSend_mode (s : State) (c : Byte) : (s.txSend c).mode = s.mode := rfl
@[simp] theorem State.txSend_cnt (s : State) (c : Byte) : (s.txSend c).cnt = s.cnt := rfl
@[simp] theorem State.txSend_idx (s : State) (c : Byte) : (s.txSend c).idx = s.idx := rfl
@[simp] theorem State.txSend_crc (s : State) (c : Byte) : (s.txSend c).crc = s.crc := rfl
@[simp] theorem State.txSend_rcrc (s : State) (c : Byte) : (s.txSend c).rcrc = s.rcrc := rfl
@[simp] theorem State.txSend_sub (s : State) (c : Byte) : (s.txSend c).sub = s.sub := rfl
@[simp] theorem State.txSend_seq (s : State) (c : Byte) : (s.txSend c).seq = s.seq := rfl
@[simp] theorem State.txSend_buf (s : State) (c : Byte) : (s.txSend c).buf = s.buf := rfl
@[simp] theorem State.txSend_rxs (s : State) (c : Byte) : (s.txSend c).rxs = s.rxs := rfl
@[simp] theorem State.txSend_txlog (s : State) (c : Byte) : (s.txSend c).txlog = s.txlog ++ [c] := rfl
@[simp] theorem State.txSend_resetHeld (s : State) (c : Byte) : (s.txSend c).resetHeld = s.resetHeld := rfl
@[simp] theorem State.txSend_det (s : State) (c : Byte) : (s.txSend c).det = s.det := rfl
@[simp] theorem State.txSend_inputs (s : State) (c : Byte) : (s.txSend c).inputs = s.inputs := rfl
@[simp] theorem State.txSend_polls (s : State) (c : Byte) : (s.txSend c).polls = s.polls := rfl
@[simp] theorem State.txSend_draws (s : State) (c : Byte) : (s.txSend c).draws = s.draws := rfl
@[simp] theorem State.txSend_hostRead (s : State) (c : Byte) : (s.txSend c).hostRead = s.hostRead := rfl

/-! ## `State.arrive` -/

@[simp] theorem State.arrive_par (s : State) (c : Byte) : (s.arrive c).par = s.par := rfl
@[simp] theorem State.arrive_op (s : State) (c : Byte) : (s.arrive c).op = s.op := rfl
@[simp] theorem State.arrive_len (s : State) (c : Byte) : (s.arrive c).len = s.len := rfl
@[simp] theorem State.arrive_off (s : State) (c : Byte) : (s.arrive c).off = s.off := rfl
@[simp] theorem State.arrive_busy (s : State) (c : Byte) : (s.arrive c).busy = s.busy := rfl
@[simp] theorem State.arrive_res (s : State) (c : Byte) : (s.arrive c).res = s.res := rfl
@[simp] theorem State.arrive_mode (s : State) (c : Byte) : (s.arrive c).mode = s.mode := rfl
@[simp] theorem State.arrive_cnt (s : State) (c : Byte) : (s.arrive c).cnt = s.cnt := rfl
@[simp] theorem State.arrive_idx (s : State) (c : Byte) : (s.arrive c).idx = s.idx := rfl
@[simp] theorem State.arrive_crc (s : State) (c : Byte) : (s.arrive c).crc = s.crc := rfl
@[simp] theorem State.arrive_rcrc (s : State) (c : Byte) : (s.arrive c).rcrc = s.rcrc := rfl
@[simp] theorem State.arrive_sub (s : State) (c : Byte) : (s.arrive c).sub = s.sub := rfl
@[simp] theorem State.arrive_seq (s : State) (c : Byte) : (s.arrive c).seq = s.seq := rfl
@[simp] theorem State.arrive_buf (s : State) (c : Byte) : (s.arrive c).buf = s.buf := rfl
@[simp] theorem State.arrive_rxs (s : State) (c : Byte) : (s.arrive c).rxs = s.rxs ++ [c] := rfl
@[simp] theorem State.arrive_txlog (s : State) (c : Byte) : (s.arrive c).txlog = s.txlog := rfl
@[simp] theorem State.arrive_resetHeld (s : State) (c : Byte) : (s.arrive c).resetHeld = s.resetHeld := rfl
@[simp] theorem State.arrive_det (s : State) (c : Byte) : (s.arrive c).det = s.det := rfl
@[simp] theorem State.arrive_inputs (s : State) (c : Byte) : (s.arrive c).inputs = s.inputs := rfl
@[simp] theorem State.arrive_polls (s : State) (c : Byte) : (s.arrive c).polls = s.polls := rfl
@[simp] theorem State.arrive_draws (s : State) (c : Byte) : (s.arrive c).draws = s.draws := rfl
@[simp] theorem State.arrive_hostRead (s : State) (c : Byte) : (s.arrive c).hostRead = s.hostRead := rfl

/-! ## `State.setMode` -/

@[simp] theorem State.setMode_par (s : State) (m : Mode) : (s.setMode m).par = s.par := rfl
@[simp] theorem State.setMode_op (s : State) (m : Mode) : (s.setMode m).op = s.op := rfl
@[simp] theorem State.setMode_len (s : State) (m : Mode) : (s.setMode m).len = s.len := rfl
@[simp] theorem State.setMode_off (s : State) (m : Mode) : (s.setMode m).off = s.off := rfl
@[simp] theorem State.setMode_busy (s : State) (m : Mode) : (s.setMode m).busy = s.busy := rfl
@[simp] theorem State.setMode_res (s : State) (m : Mode) : (s.setMode m).res = s.res := rfl
@[simp] theorem State.setMode_mode (s : State) (m : Mode) : (s.setMode m).mode = m := rfl
@[simp] theorem State.setMode_cnt (s : State) (m : Mode) : (s.setMode m).cnt = s.cnt := rfl
@[simp] theorem State.setMode_idx (s : State) (m : Mode) : (s.setMode m).idx = s.idx := rfl
@[simp] theorem State.setMode_crc (s : State) (m : Mode) : (s.setMode m).crc = s.crc := rfl
@[simp] theorem State.setMode_rcrc (s : State) (m : Mode) : (s.setMode m).rcrc = s.rcrc := rfl
@[simp] theorem State.setMode_sub (s : State) (m : Mode) : (s.setMode m).sub = s.sub := rfl
@[simp] theorem State.setMode_seq (s : State) (m : Mode) : (s.setMode m).seq = s.seq := rfl
@[simp] theorem State.setMode_buf (s : State) (m : Mode) : (s.setMode m).buf = s.buf := rfl
@[simp] theorem State.setMode_rxs (s : State) (m : Mode) : (s.setMode m).rxs = s.rxs := rfl
@[simp] theorem State.setMode_txlog (s : State) (m : Mode) : (s.setMode m).txlog = s.txlog := rfl
@[simp] theorem State.setMode_resetHeld (s : State) (m : Mode) : (s.setMode m).resetHeld = s.resetHeld := rfl
@[simp] theorem State.setMode_det (s : State) (m : Mode) : (s.setMode m).det = s.det := rfl
@[simp] theorem State.setMode_inputs (s : State) (m : Mode) : (s.setMode m).inputs = s.inputs := rfl
@[simp] theorem State.setMode_polls (s : State) (m : Mode) : (s.setMode m).polls = s.polls := rfl
@[simp] theorem State.setMode_draws (s : State) (m : Mode) : (s.setMode m).draws = s.draws := rfl
@[simp] theorem State.setMode_hostRead (s : State) (m : Mode) : (s.setMode m).hostRead = s.hostRead := rfl

/-! ## `State.drive` -/

@[simp] theorem State.drive_par (s : State) (c : Byte) : (s.drive c).par = s.par := rfl
@[simp] theorem State.drive_op (s : State) (c : Byte) : (s.drive c).op = s.op := rfl
@[simp] theorem State.drive_len (s : State) (c : Byte) : (s.drive c).len = s.len := rfl
@[simp] theorem State.drive_off (s : State) (c : Byte) : (s.drive c).off = s.off := rfl
@[simp] theorem State.drive_busy (s : State) (c : Byte) : (s.drive c).busy = s.busy := rfl
@[simp] theorem State.drive_res (s : State) (c : Byte) : (s.drive c).res = s.res := rfl
@[simp] theorem State.drive_mode (s : State) (c : Byte) : (s.drive c).mode = s.mode := rfl
@[simp] theorem State.drive_cnt (s : State) (c : Byte) : (s.drive c).cnt = s.cnt := rfl
@[simp] theorem State.drive_idx (s : State) (c : Byte) : (s.drive c).idx = s.idx := rfl
@[simp] theorem State.drive_crc (s : State) (c : Byte) : (s.drive c).crc = s.crc := rfl
@[simp] theorem State.drive_rcrc (s : State) (c : Byte) : (s.drive c).rcrc = s.rcrc := rfl
@[simp] theorem State.drive_sub (s : State) (c : Byte) : (s.drive c).sub = s.sub := rfl
@[simp] theorem State.drive_seq (s : State) (c : Byte) : (s.drive c).seq = s.seq := rfl
@[simp] theorem State.drive_buf (s : State) (c : Byte) : (s.drive c).buf = s.buf := rfl
@[simp] theorem State.drive_rxs (s : State) (c : Byte) : (s.drive c).rxs = s.rxs := rfl
@[simp] theorem State.drive_txlog (s : State) (c : Byte) : (s.drive c).txlog = s.txlog := rfl
@[simp] theorem State.drive_resetHeld (s : State) (c : Byte) : (s.drive c).resetHeld = s.resetHeld := rfl
@[simp] theorem State.drive_det (s : State) (c : Byte) : (s.drive c).det = detect s.par s.mode s.cnt c := rfl
@[simp] theorem State.drive_inputs (s : State) (c : Byte) : (s.drive c).inputs = s.inputs := rfl
@[simp] theorem State.drive_polls (s : State) (c : Byte) : (s.drive c).polls = s.polls := rfl
@[simp] theorem State.drive_draws (s : State) (c : Byte) : (s.drive c).draws = s.draws := rfl
@[simp] theorem State.drive_hostRead (s : State) (c : Byte) : (s.drive c).hostRead = s.hostRead := rfl

/-! ## `State.crcClear` -/

@[simp] theorem State.crcClear_par (s : State) : (s.crcClear).par = s.par := rfl
@[simp] theorem State.crcClear_op (s : State) : (s.crcClear).op = s.op := rfl
@[simp] theorem State.crcClear_len (s : State) : (s.crcClear).len = s.len := rfl
@[simp] theorem State.crcClear_off (s : State) : (s.crcClear).off = s.off := rfl
@[simp] theorem State.crcClear_busy (s : State) : (s.crcClear).busy = s.busy := rfl
@[simp] theorem State.crcClear_res (s : State) : (s.crcClear).res = s.res := rfl
@[simp] theorem State.crcClear_mode (s : State) : (s.crcClear).mode = s.mode := rfl
@[simp] theorem State.crcClear_cnt (s : State) : (s.crcClear).cnt = s.cnt := rfl
@[simp] theorem State.crcClear_idx (s : State) : (s.crcClear).idx = s.idx := rfl
@[simp] theorem State.crcClear_crc (s : State) : (s.crcClear).crc = 0 := rfl
@[simp] theorem State.crcClear_rcrc (s : State) : (s.crcClear).rcrc = s.rcrc := rfl
@[simp] theorem State.crcClear_sub (s : State) : (s.crcClear).sub = s.sub := rfl
@[simp] theorem State.crcClear_seq (s : State) : (s.crcClear).seq = s.seq := rfl
@[simp] theorem State.crcClear_buf (s : State) : (s.crcClear).buf = s.buf := rfl
@[simp] theorem State.crcClear_rxs (s : State) : (s.crcClear).rxs = s.rxs := rfl
@[simp] theorem State.crcClear_txlog (s : State) : (s.crcClear).txlog = s.txlog := rfl
@[simp] theorem State.crcClear_resetHeld (s : State) : (s.crcClear).resetHeld = s.resetHeld := rfl
@[simp] theorem State.crcClear_det (s : State) : (s.crcClear).det = s.det := rfl
@[simp] theorem State.crcClear_inputs (s : State) : (s.crcClear).inputs = s.inputs := rfl
@[simp] theorem State.crcClear_polls (s : State) : (s.crcClear).polls = s.polls := rfl
@[simp] theorem State.crcClear_draws (s : State) : (s.crcClear).draws = s.draws := rfl
@[simp] theorem State.crcClear_hostRead (s : State) : (s.crcClear).hostRead = s.hostRead := rfl

/-! ## `State.crcFold` -/

@[simp] theorem State.crcFold_par (s : State) (b : Byte) : (s.crcFold b).par = s.par := rfl
@[simp] theorem State.crcFold_op (s : State) (b : Byte) : (s.crcFold b).op = s.op := rfl
@[simp] theorem State.crcFold_len (s : State) (b : Byte) : (s.crcFold b).len = s.len := rfl
@[simp] theorem State.crcFold_off (s : State) (b : Byte) : (s.crcFold b).off = s.off := rfl
@[simp] theorem State.crcFold_busy (s : State) (b : Byte) : (s.crcFold b).busy = s.busy := rfl
@[simp] theorem State.crcFold_res (s : State) (b : Byte) : (s.crcFold b).res = s.res := rfl
@[simp] theorem State.crcFold_mode (s : State) (b : Byte) : (s.crcFold b).mode = s.mode := rfl
@[simp] theorem State.crcFold_cnt (s : State) (b : Byte) : (s.crcFold b).cnt = s.cnt := rfl
@[simp] theorem State.crcFold_idx (s : State) (b : Byte) : (s.crcFold b).idx = s.idx := rfl
@[simp] theorem State.crcFold_crc (s : State) (b : Byte) : (s.crcFold b).crc = crc16Update s.par.crcFn s.crc b := rfl
@[simp] theorem State.crcFold_rcrc (s : State) (b : Byte) : (s.crcFold b).rcrc = s.rcrc := rfl
@[simp] theorem State.crcFold_sub (s : State) (b : Byte) : (s.crcFold b).sub = s.sub := rfl
@[simp] theorem State.crcFold_seq (s : State) (b : Byte) : (s.crcFold b).seq = s.seq := rfl
@[simp] theorem State.crcFold_buf (s : State) (b : Byte) : (s.crcFold b).buf = s.buf := rfl
@[simp] theorem State.crcFold_rxs (s : State) (b : Byte) : (s.crcFold b).rxs = s.rxs := rfl
@[simp] theorem State.crcFold_txlog (s : State) (b : Byte) : (s.crcFold b).txlog = s.txlog := rfl
@[simp] theorem State.crcFold_resetHeld (s : State) (b : Byte) : (s.crcFold b).resetHeld = s.resetHeld := rfl
@[simp] theorem State.crcFold_det (s : State) (b : Byte) : (s.crcFold b).det = s.det := rfl
@[simp] theorem State.crcFold_inputs (s : State) (b : Byte) : (s.crcFold b).inputs = s.inputs := rfl
@[simp] theorem State.crcFold_polls (s : State) (b : Byte) : (s.crcFold b).polls = s.polls := rfl
@[simp] theorem State.crcFold_draws (s : State) (b : Byte) : (s.crcFold b).draws = s.draws := rfl
@[simp] theorem State.crcFold_hostRead (s : State) (b : Byte) : (s.crcFold b).hostRead = s.hostRead := rfl

/-! ## `State.releaseReset` -/

@[simp] theorem State.releaseReset_par (s : State) : (s.releaseReset).par = s.par := rfl
@[simp] theorem State.releaseReset_op (s : State) : (s.releaseReset).op = s.op := rfl
@[simp] theorem State.releaseReset_len (s : State) : (s.releaseReset).len = s.len := rfl
@[simp] theorem State.releaseReset_off (s : State) : (s.releaseReset).off = s.off := rfl
@[simp] theorem State.releaseReset_busy (s : State) : (s.releaseReset).busy = s.busy := rfl
@[simp] theorem State.releaseReset_res (s : State) : (s.releaseReset).res = s.res := rfl
@[simp] theorem State.releaseReset_mode (s : State) : (s.releaseReset).mode = s.mode := rfl
@[simp] theorem State.releaseReset_cnt (s : State) : (s.releaseReset).cnt = s.cnt := rfl
@[simp] theorem State.releaseReset_idx (s : State) : (s.releaseReset).idx = s.idx := rfl
@[simp] theorem State.releaseReset_crc (s : State) : (s.releaseReset).crc = s.crc := rfl
@[simp] theorem State.releaseReset_rcrc (s : State) : (s.releaseReset).rcrc = s.rcrc := rfl
@[simp] theorem State.releaseReset_sub (s : State) : (s.releaseReset).sub = s.sub := rfl
@[simp] theorem State.releaseReset_seq (s : State) : (s.releaseReset).seq = s.seq := rfl
@[simp] theorem State.releaseReset_buf (s : State) : (s.releaseReset).buf = s.buf := rfl
@[simp] theorem State.releaseReset_rxs (s : State) : (s.releaseReset).rxs = s.rxs := rfl
@[simp] theorem State.releaseReset_txlog (s : State) : (s.releaseReset).txlog = s.txlog := rfl
@[simp] theorem State.releaseReset_resetHeld (s : State) : (s.releaseReset).resetHeld = false := rfl
@[simp] theorem State.releaseReset_det (s : State) : (s.releaseReset).det = s.det := rfl
@[simp] theorem State.releaseReset_inputs (s : State) : (s.releaseReset).inputs = s.inputs := rfl
@[simp] theorem State.releaseReset_polls (s : State) : (s.releaseReset).polls = s.polls := rfl
@[simp] theorem State.releaseReset_draws (s : State) : (s.releaseReset).draws = s.draws := rfl
@[simp] theorem State.releaseReset_hostRead (s : State) : (s.releaseReset).hostRead = s.hostRead := rfl

/-! ## `State.unsettleOp` -/

@[simp] theorem State.unsettleOp_par (s : State) : (s.unsettleOp).par = s.par := rfl
@[simp] theorem State.unsettleOp_op (s : State) : (s.unsettleOp).op = (Config.freeWord s.draws).setWidth 3 := rfl
@[simp] theorem State.unsettleOp_len (s : State) : (s.unsettleOp).len = s.len := rfl
@[simp] theorem State.unsettleOp_off (s : State) : (s.unsettleOp).off = s.off := rfl
@[simp] theorem State.unsettleOp_busy (s : State) : (s.unsettleOp).busy = s.busy := rfl
@[simp] theorem State.unsettleOp_res (s : State) : (s.unsettleOp).res = s.res := rfl
@[simp] theorem State.unsettleOp_mode (s : State) : (s.unsettleOp).mode = s.mode := rfl
@[simp] theorem State.unsettleOp_cnt (s : State) : (s.unsettleOp).cnt = s.cnt := rfl
@[simp] theorem State.unsettleOp_idx (s : State) : (s.unsettleOp).idx = s.idx := rfl
@[simp] theorem State.unsettleOp_crc (s : State) : (s.unsettleOp).crc = s.crc := rfl
@[simp] theorem State.unsettleOp_rcrc (s : State) : (s.unsettleOp).rcrc = s.rcrc := rfl
@[simp] theorem State.unsettleOp_sub (s : State) : (s.unsettleOp).sub = s.sub := rfl
@[simp] theorem State.unsettleOp_seq (s : State) : (s.unsettleOp).seq = s.seq := rfl
@[simp] theorem State.unsettleOp_buf (s : State) : (s.unsettleOp).buf = s.buf := rfl
@[simp] theorem State.unsettleOp_rxs (s : State) : (s.unsettleOp).rxs = s.rxs := rfl
@[simp] theorem State.unsettleOp_txlog (s : State) : (s.unsettleOp).txlog = s.txlog := rfl
@[simp] theorem State.unsettleOp_resetHeld (s : State) : (s.unsettleOp).resetHeld = s.resetHeld := rfl
@[simp] theorem State.unsettleOp_det (s : State) : (s.unsettleOp).det = s.det := rfl
@[simp] theorem State.unsettleOp_inputs (s : State) : (s.unsettleOp).inputs = s.inputs := rfl
@[simp] theorem State.unsettleOp_polls (s : State) : (s.unsettleOp).polls = s.polls := rfl
@[simp] theorem State.unsettleOp_draws (s : State) : (s.unsettleOp).draws = s.draws + 1 := rfl
@[simp] theorem State.unsettleOp_hostRead (s : State) : (s.unsettleOp).hostRead = s.hostRead := rfl

/-! ## `State.unsettleLen` -/

@[simp] theorem State.unsettleLen_par (s : State) : (s.unsettleLen).par = s.par := rfl
@[simp] theorem State.unsettleLen_op (s : State) : (s.unsettleLen).op = s.op := rfl
@[simp] theorem State.unsettleLen_len (s : State) : (s.unsettleLen).len = (Config.freeWord s.draws).setWidth 8 := rfl
@[simp] theorem State.unsettleLen_off (s : State) : (s.unsettleLen).off = s.off := rfl
@[simp] theorem State.unsettleLen_busy (s : State) : (s.unsettleLen).busy = s.busy := rfl
@[simp] theorem State.unsettleLen_res (s : State) : (s.unsettleLen).res = s.res := rfl
@[simp] theorem State.unsettleLen_mode (s : State) : (s.unsettleLen).mode = s.mode := rfl
@[simp] theorem State.unsettleLen_cnt (s : State) : (s.unsettleLen).cnt = s.cnt := rfl
@[simp] theorem State.unsettleLen_idx (s : State) : (s.unsettleLen).idx = s.idx := rfl
@[simp] theorem State.unsettleLen_crc (s : State) : (s.unsettleLen).crc = s.crc := rfl
@[simp] theorem State.unsettleLen_rcrc (s : State) : (s.unsettleLen).rcrc = s.rcrc := rfl
@[simp] theorem State.unsettleLen_sub (s : State) : (s.unsettleLen).sub = s.sub := rfl
@[simp] theorem State.unsettleLen_seq (s : State) : (s.unsettleLen).seq = s.seq := rfl
@[simp] theorem State.unsettleLen_buf (s : State) : (s.unsettleLen).buf = s.buf := rfl
@[simp] theorem State.unsettleLen_rxs (s : State) : (s.unsettleLen).rxs = s.rxs := rfl
@[simp] theorem State.unsettleLen_txlog (s : State) : (s.unsettleLen).txlog = s.txlog := rfl
@[simp] theorem State.unsettleLen_resetHeld (s : State) : (s.unsettleLen).resetHeld = s.resetHeld := rfl
@[simp] theorem State.unsettleLen_det (s : State) : (s.unsettleLen).det = s.det := rfl
@[simp] theorem State.unsettleLen_inputs (s : State) : (s.unsettleLen).inputs = s.inputs := rfl
@[simp] theorem State.unsettleLen_polls (s : State) : (s.unsettleLen).polls = s.polls := rfl
@[simp] theorem State.unsettleLen_draws (s : State) : (s.unsettleLen).draws = s.draws + 1 := rfl
@[simp] theorem State.unsettleLen_hostRead (s : State) : (s.unsettleLen).hostRead = s.hostRead := rfl

/-! ## `State.unsettleOff` -/

@[simp] theorem State.unsettleOff_par (s : State) : (s.unsettleOff).par = s.par := rfl
@[simp] theorem State.unsettleOff_op (s : State) : (s.unsettleOff).op = s.op := rfl
@[simp] theorem State.unsettleOff_len (s : State) : (s.unsettleOff).len = s.len := rfl
@[simp] theorem State.unsettleOff_off (s : State) : (s.unsettleOff).off = (Config.freeWord s.draws).setWidth 8 := rfl
@[simp] theorem State.unsettleOff_busy (s : State) : (s.unsettleOff).busy = s.busy := rfl
@[simp] theorem State.unsettleOff_res (s : State) : (s.unsettleOff).res = s.res := rfl
@[simp] theorem State.unsettleOff_mode (s : State) : (s.unsettleOff).mode = s.mode := rfl
@[simp] theorem State.unsettleOff_cnt (s : State) : (s.unsettleOff).cnt = s.cnt := rfl
@[simp] theorem State.unsettleOff_idx (s : State) : (s.unsettleOff).idx = s.idx := rfl
@[simp] theorem State.unsettleOff_crc (s : State) : (s.unsettleOff).crc = s.crc := rfl
@[simp] theorem State.unsettleOff_rcrc (s : State) : (s.unsettleOff).rcrc = s.rcrc := rfl
@[simp] theorem State.unsettleOff_sub (s : State) : (s.unsettleOff).sub = s.sub := rfl
@[simp] theorem State.unsettleOff_seq (s : State) : (s.unsettleOff).seq = s.seq := rfl
@[simp] theorem State.unsettleOff_buf (s : State) : (s.unsettleOff).buf = s.buf := rfl
@[simp] theorem State.unsettleOff_rxs (s : State) : (s.unsettleOff).rxs = s.rxs := rfl
@[simp] theorem State.unsettleOff_txlog (s : State) : (s.unsettleOff).txlog = s.txlog := rfl
@[simp] theorem State.unsettleOff_resetHeld (s : State) : (s.unsettleOff).resetHeld = s.resetHeld := rfl
@[simp] theorem State.unsettleOff_det (s : State) : (s.unsettleOff).det = s.det := rfl
@[simp] theorem State.unsettleOff_inputs (s : State) : (s.unsettleOff).inputs = s.inputs := rfl
@[simp] theorem State.unsettleOff_polls (s : State) : (s.unsettleOff).polls = s.polls := rfl
@[simp] theorem State.unsettleOff_draws (s : State) : (s.unsettleOff).draws = s.draws + 1 := rfl
@[simp] theorem State.unsettleOff_hostRead (s : State) : (s.unsettleOff).hostRead = s.hostRead := rfl

/-! ## `State.sendEscape` -/

@[simp] theorem State.sendEscape_par (s : State) (c : Byte) : (s.sendEscape c).par = s.par := rfl
@[simp] theorem State.sendEscape_op (s : State) (c : Byte) : (s.sendEscape c).op = s.op := rfl
@[simp] theorem State.sendEscape_len (s : State) (c : Byte) : (s.sendEscape c).len = s.len := rfl
@[simp] theorem State.sendEscape_off (s : State) (c : Byte) : (s.sendEscape c).off = s.off := rfl
@[simp] theorem State.sendEscape_busy (s : State) (c : Byte) : (s.sendEscape c).busy = s.busy := rfl
@[simp] theorem State.sendEscape_res (s : State) (c : Byte) : (s.sendEscape c).res = s.res := rfl
@[simp] theorem State.sendEscape_mode (s : State) (c : Byte) : (s.sendEscape c).mode = s.mode := rfl
@[simp] theorem State.sendEscape_cnt (s : State) (c : Byte) : (s.sendEscape c).cnt = s.cnt := rfl
@[simp] theorem State.sendEscape_idx (s : State) (c : Byte) : (s.sendEscape c).idx = s.idx := rfl
@[simp] theorem State.sendEscape_crc (s : State) (c : Byte) : (s.sendEscape c).crc = s.crc := rfl
@[simp] theorem State.sendEscape_rcrc (s : State) (c : Byte) : (s.sendEscape c).rcrc = s.rcrc := rfl
@[simp] theorem State.sendEscape_sub (s : State) (c : Byte) : (s.sendEscape c).sub = c := rfl
@[simp] theorem State.sendEscape_seq (s : State) (c : Byte) : (s.sendEscape c).seq = .e2 := rfl
@[simp] theorem State.sendEscape_buf (s : State) (c : Byte) : (s.sendEscape c).buf = s.buf := rfl
@[simp] theorem State.sendEscape_rxs (s : State) (c : Byte) : (s.sendEscape c).rxs = s.rxs := rfl
@[simp] theorem State.sendEscape_txlog (s : State) (c : Byte) : (s.sendEscape c).txlog = s.txlog ++ [s.par.escC] := rfl
@[simp] theorem State.sendEscape_resetHeld (s : State) (c : Byte) : (s.sendEscape c).resetHeld = s.resetHeld := rfl
@[simp] theorem State.sendEscape_det (s : State) (c : Byte) : (s.sendEscape c).det = s.det := rfl
@[simp] theorem State.sendEscape_inputs (s : State) (c : Byte) : (s.sendEscape c).inputs = s.inputs := rfl
@[simp] theorem State.sendEscape_polls (s : State) (c : Byte) : (s.sendEscape c).polls = s.polls := rfl
@[simp] theorem State.sendEscape_draws (s : State) (c : Byte) : (s.sendEscape c).draws = s.draws := rfl
@[simp] theorem State.sendEscape_hostRead (s : State) (c : Byte) : (s.sendEscape c).hostRead = s.hostRead := rfl

/-! ## `State.advance` -/

@[simp] theorem State.advance_par (s : State) (q : Seq) : (s.advance q).par = s.par := rfl
@[simp] theorem State.advance_op (s : State) (q : Seq) : (s.advance q).op = s.op := rfl
@[simp] theorem State.advance_len (s : State) (q : Seq) : (s.advance q).len = s.len := rfl
@[simp] theorem State.advance_off (s : State) (q : Seq) : (s.advance q).off = s.off := rfl
@[simp] theorem State.advance_busy (s : State) (q : Seq) : (s.advance q).busy = s.busy := rfl
@[simp] theorem State.advance_res (s : State) (q : Seq) : (s.advance q).res = s.res := rfl
@[simp] theorem State.advance_mode (s : State) (q : Seq) : (s.advance q).mode = s.mode := rfl
@[simp] theorem State.advance_cnt (s : State) (q : Seq) : (s.advance q).cnt = s.cnt := rfl
@[simp] theorem State.advance_idx (s : State) (q : Seq) : (s.advance q).idx = s.idx + 1 := rfl
@[simp] theorem State.advance_crc (s : State) (q : Seq) : (s.advance q).crc = s.crc := rfl
@[simp] theorem State.advance_rcrc (s : State) (q : Seq) : (s.advance q).rcrc = s.rcrc := rfl
@[simp] theorem State.advance_sub (s : State) (q : Seq) : (s.advance q).sub = s.sub := rfl
@[simp] theorem State.advance_seq (s : State) (q : Seq) : (s.advance q).seq = if (s.idx + 1).toNat = s.len.toNat then .e3 else q := rfl
@[simp] theorem State.advance_buf (s : State) (q : Seq) : (s.advance q).buf = s.buf := rfl
@[simp] theorem State.advance_rxs (s : State) (q : Seq) : (s.advance q).rxs = s.rxs := rfl
@[simp] theorem State.advance_txlog (s : State) (q : Seq) : (s.advance q).txlog = s.txlog := rfl
@[simp] theorem State.advance_resetHeld (s : State) (q : Seq) : (s.advance q).resetHeld = s.resetHeld := rfl
@[simp] theorem State.advance_det (s : State) (q : Seq) : (s.advance q).det = s.det := rfl
@[simp] theorem State.advance_inputs (s : State) (q : Seq) : (s.advance q).inputs = s.inputs := rfl
@[simp] theorem State.advance_polls (s : State) (q : Seq) : (s.advance q).polls = s.polls := rfl
@[simp] theorem State.advance_draws (s : State) (q : Seq) : (s.advance q).draws = s.draws := rfl
@[simp] theorem State.advance_hostRead (s : State) (q : Seq) : (s.advance q).hostRead = s.hostRead := rfl

/-! ## `State.spendDraw` and `State.takeChar` -/

@[simp] theorem State.spendDraw_par (s : State) : s.spendDraw.par = s.par := by
  unfold State.spendDraw; split <;> rfl
@[simp] theorem State.spendDraw_op (s : State) : s.spendDraw.op = s.op := by
  unfold State.spendDraw; split <;> rfl
@[simp] theorem State.spendDraw_len (s : State) : s.spendDraw.len = s.len := by
  unfold State.spendDraw; split <;> rfl
@[simp] theorem State.spendDraw_off (s : State) : s.spendDraw.off = s.off := by
  unfold State.spendDraw; split <;> rfl
@[simp] theorem State.spendDraw_busy (s : State) : s.spendDraw.busy = s.busy := by
  unfold State.spendDraw; split <;> rfl
@[simp] theorem State.spendDraw_res (s : State) : s.spendDraw.res = s.res := by
  unfold State.spendDraw; split <;> rfl
@[simp] theorem State.spendDraw_mode (s : State) : s.spendDraw.mode = s.mode := by
  unfold State.spendDraw; split <;> rfl
@[simp] theorem State.spendDraw_cnt (s : State) : s.spendDraw.cnt = s.cnt := by
  unfold State.spendDraw; split <;> rfl
@[simp] theorem State.spendDraw_idx (s : State) : s.spendDraw.idx = s.idx := by
  unfold State.spendDraw; split <;> rfl
@[simp] theorem State.spendDraw_crc (s : State) : s.spendDraw.crc = s.crc := by
  unfold State.spendDraw; split <;> rfl
@[simp] theorem State.spendDraw_rcrc (s : State) : s.spendDraw.rcrc = s.rcrc := by
  unfold State.spendDraw; split <;> rfl
@[simp] theorem State.spendDraw_sub (s : State) : s.spendDraw.sub = s.sub := by
  unfold State.spendDraw; split <;> rfl
@[simp] theorem State.spendDraw_seq (s : State) : s.spendDraw.seq = s.seq := by
  unfold State.spendDraw; split <;> rfl
@[simp] theorem State.spendDraw_buf (s : State) : s.spendDraw.buf = s.buf := by
  unfold State.spendDraw; split <;> rfl
@[simp] theorem State.spendDraw_rxs (s : State) : s.spendDraw.rxs = s.rxs := by
  unfold State.spendDraw; split <;> rfl
@[simp] theorem State.spendDraw_txlog (s : State) : s.spendDraw.txlog = s.txlog := by
  unfold State.spendDraw; split <;> rfl
@[simp] theorem State.spendDraw_resetHeld (s : State) : s.spendDraw.resetHeld = s.resetHeld := by
  unfold State.spendDraw; split <;> rfl
@[simp] theorem State.spendDraw_det (s : State) : s.spendDraw.det = s.det := by
  unfold State.spendDraw; split <;> rfl
@[simp] theorem State.spendDraw_inputs (s : State) : s.spendDraw.inputs = s.inputs := by
  unfold State.spendDraw; split <;> rfl
@[simp] theorem State.spendDraw_hostRead (s : State) : s.spendDraw.hostRead = s.hostRead := by
  unfold State.spendDraw; split <;> rfl
@[simp] theorem State.spendDraw_polls (s : State) : s.spendDraw.polls = s.polls.tail := by
  unfold State.spendDraw; split <;> simp [*]

@[simp] theorem State.takeChar_par (s : State) : s.takeChar.par = s.par := by simp [State.takeChar]
@[simp] theorem State.takeChar_op (s : State) : s.takeChar.op = s.op := by simp [State.takeChar]
@[simp] theorem State.takeChar_len (s : State) : s.takeChar.len = s.len := by simp [State.takeChar]
@[simp] theorem State.takeChar_off (s : State) : s.takeChar.off = s.off := by simp [State.takeChar]
@[simp] theorem State.takeChar_busy (s : State) : s.takeChar.busy = s.busy := by simp [State.takeChar]
@[simp] theorem State.takeChar_res (s : State) : s.takeChar.res = s.res := by simp [State.takeChar]
@[simp] theorem State.takeChar_mode (s : State) : s.takeChar.mode = s.mode := by simp [State.takeChar]
@[simp] theorem State.takeChar_cnt (s : State) : s.takeChar.cnt = s.cnt := by simp [State.takeChar]
@[simp] theorem State.takeChar_idx (s : State) : s.takeChar.idx = s.idx := by simp [State.takeChar]
@[simp] theorem State.takeChar_crc (s : State) : s.takeChar.crc = s.crc := by simp [State.takeChar]
@[simp] theorem State.takeChar_rcrc (s : State) : s.takeChar.rcrc = s.rcrc := by simp [State.takeChar]
@[simp] theorem State.takeChar_sub (s : State) : s.takeChar.sub = s.sub := by simp [State.takeChar]
@[simp] theorem State.takeChar_seq (s : State) : s.takeChar.seq = s.seq := by simp [State.takeChar]
@[simp] theorem State.takeChar_buf (s : State) : s.takeChar.buf = s.buf := by simp [State.takeChar]
@[simp] theorem State.takeChar_rxs (s : State) : s.takeChar.rxs = s.rxs.tail := by simp [State.takeChar]
@[simp] theorem State.takeChar_txlog (s : State) : s.takeChar.txlog = s.txlog := by simp [State.takeChar]
@[simp] theorem State.takeChar_resetHeld (s : State) : s.takeChar.resetHeld = s.resetHeld := by simp [State.takeChar]
@[simp] theorem State.takeChar_det (s : State) : s.takeChar.det = s.det := by simp [State.takeChar]
@[simp] theorem State.takeChar_inputs (s : State) : s.takeChar.inputs = s.inputs := by simp [State.takeChar]
@[simp] theorem State.takeChar_polls (s : State) : s.takeChar.polls = s.polls.tail := by simp [State.takeChar]
@[simp] theorem State.takeChar_hostRead (s : State) : s.takeChar.hostRead = s.hostRead := by simp [State.takeChar]

/-! ## `State.assertReset` (R40, R280): the fields the rule gives a value or leaves alone -/

@[simp] theorem State.assertReset_par (s : State) : s.assertReset.par = s.par := by
  unfold State.assertReset; split <;> simp [*]
@[simp] theorem State.assertReset_rxs (s : State) : s.assertReset.rxs = s.rxs := by
  unfold State.assertReset; split <;> simp [*]
@[simp] theorem State.assertReset_txlog (s : State) : s.assertReset.txlog = s.txlog := by
  unfold State.assertReset; split <;> simp [*]
@[simp] theorem State.assertReset_resetHeld (s : State) : s.assertReset.resetHeld = true := by
  unfold State.assertReset; split <;> simp [*]
@[simp] theorem State.assertReset_det (s : State) : s.assertReset.det = s.det := by
  unfold State.assertReset; split <;> simp [*]
@[simp] theorem State.assertReset_inputs (s : State) : s.assertReset.inputs = s.inputs := by
  unfold State.assertReset; split <;> simp [*]
@[simp] theorem State.assertReset_polls (s : State) : s.assertReset.polls = s.polls := by
  unfold State.assertReset; split <;> simp [*]
@[simp] theorem State.assertReset_hostRead (s : State) : s.assertReset.hostRead = s.hostRead := by
  unfold State.assertReset; split <;> simp [*]

/-- While reset is asserted, asserting it changes nothing. -/
theorem State.assertReset_of_held {s : State} (h : s.resetHeld = true) : s.assertReset = s := if_pos h

/-- What asserting the reset input does to the fields R280 gives a value. -/
theorem State.assertReset_of_not_held {s : State} (h : s.resetHeld = false) :
    s.assertReset.busy = false ∧ s.assertReset.seq = .idle ∧ s.assertReset.mode = .normal ∧ s.assertReset.buf = [] ∧
      (s.busy = true → s.assertReset.res = s.res) := by
  unfold State.assertReset; rw [h]; simp only [Bool.false_eq_true, if_false, true_and]
  intro hb; rw [hb]; rfl

end Sys2Proof.Machine
end

