-- ==== Sys2Proof/Laws/Memory.lean ====
section
/-! SUPPORT. `BUF`: reads after writes, the canonical form, and one lemma per access that says all it can do (20_memory R51 to
R53). -/

namespace Sys2Proof.Machine

@[simp] theorem Memory.get_nil (i : Nat) : Memory.get [] i = none := rfl

theorem Memory.get_set (m : Memory) (i j : Nat) (v : Byte) :
    (Memory.set m i v).get j = if j = i then some v else m.get j := by
  induction m with
  | nil => simp only [Memory.set, Memory.get, eq_comm]
  | cons c rest ih =>
    obtain ⟨a, w⟩ := c
    simp only [Memory.set]
    split
    · simp only [Memory.get, eq_comm]
    · split
      · subst_vars; simp only [Memory.get]; split <;> simp_all [eq_comm]
      · simp only [Memory.get, ih]; split <;> split <;> simp_all

@[simp] theorem Memory.get_set_same (m : Memory) (i : Nat) (v : Byte) : (Memory.set m i v).get i = some v := by
  simp [Memory.get_set]

theorem Memory.get_set_other (m : Memory) {i j : Nat} (v : Byte) (h : j ≠ i) : (Memory.set m i v).get j = m.get j := by
  simp [Memory.get_set, h]

theorem Memory.risingFrom_mono {size lo lo' : Nat} {m : Memory} (h : Memory.risingFrom size lo m = true)
    (hl : lo' ≤ lo) : Memory.risingFrom size lo' m = true := by
  cases m with
  | nil => rfl
  | cons c rest =>
    simp only [Memory.risingFrom, Bool.and_eq_true, decide_eq_true_eq] at h ⊢
    exact ⟨⟨le_trans hl h.1.1, h.1.2⟩, h.2⟩

theorem Memory.risingFrom_set {size lo i : Nat} {m : Memory} (v : Byte) (h : Memory.risingFrom size lo m = true)
    (hlo : lo ≤ i) (hi : i < size) : Memory.risingFrom size lo (Memory.set m i v) = true := by
  induction m generalizing lo with
  | nil => simp [Memory.set, Memory.risingFrom, hlo, hi]
  | cons c rest ih =>
    obtain ⟨a, w⟩ := c
    simp only [Memory.risingFrom, Bool.and_eq_true, decide_eq_true_eq] at h
    simp only [Memory.set]
    split
    · simp only [Memory.risingFrom, Bool.and_eq_true, decide_eq_true_eq]
      exact ⟨⟨hlo, hi⟩, ⟨by omega, h.1.2⟩, h.2⟩
    · split
      · subst_vars
        simp only [Memory.risingFrom, Bool.and_eq_true, decide_eq_true_eq]
        exact ⟨⟨hlo, hi⟩, h.2⟩
      · simp only [Memory.risingFrom, Bool.and_eq_true, decide_eq_true_eq]
        exact ⟨h.1, ih h.2 (by omega)⟩

/-- A write within `BUF_SIZE` keeps the canonical form. -/
theorem Memory.wf_set {size i : Nat} {m : Memory} (v : Byte) (h : Memory.wf size m = true) (hi : i < size) :
    Memory.wf size (Memory.set m i v) = true :=
  Memory.risingFrom_set v h (Nat.zero_le i) hi

@[simp] theorem Memory.wf_nil (size : Nat) : Memory.wf size [] = true := rfl

theorem Memory.get_none_of_below {size lo i : Nat} {m : Memory} (h : Memory.risingFrom size lo m = true) (hi : i < lo) :
    m.get i = none := by
  induction m generalizing lo with
  | nil => rfl
  | cons c rest ih =>
    obtain ⟨a, w⟩ := c
    simp only [Memory.risingFrom, Bool.and_eq_true, decide_eq_true_eq] at h
    simp only [Memory.get]
    rw [if_neg (by omega)]
    exact ih h.2 (by omega)

/-- Two memories in canonical form that read alike are the same data. -/
theorem Memory.eq_of_get {size lo : Nat} {m n : Memory} (hm : Memory.risingFrom size lo m = true)
    (hn : Memory.risingFrom size lo n = true) (h : ∀ i, m.get i = n.get i) : m = n := by
  induction m generalizing lo n with
  | nil =>
    cases n with
    | nil => rfl
    | cons c rest => have := h c.1; simp [Memory.get] at this
  | cons c rest ih =>
    obtain ⟨a, v⟩ := c
    cases n with
    | nil => have := h a; simp [Memory.get] at this
    | cons d rest' =>
      obtain ⟨b, w⟩ := d
      simp only [Memory.risingFrom, Bool.and_eq_true, decide_eq_true_eq] at hm hn
      have hab : a = b := by
        rcases Nat.lt_trichotomy a b with hlt | heq | hgt
        · have := h a
          simp only [Memory.get, if_true, if_neg (show ¬ b = a by omega)] at this
          rw [Memory.get_none_of_below hn.2 (by omega)] at this
          cases this
        · exact heq
        · have := h b
          simp only [Memory.get, if_true, if_neg (show ¬ a = b by omega)] at this
          rw [Memory.get_none_of_below hm.2 (by omega)] at this
          cases this
      subst hab
      have hv : v = w := by have := h a; simpa [Memory.get] using this
      subst hv
      congr 1
      refine ih hm.2 hn.2 fun i => ?_
      by_cases hi : i = a
      · subst hi
        rw [Memory.get_none_of_below hm.2 (by omega), Memory.get_none_of_below hn.2 (by omega)]
      · have := h i
        simpa only [Memory.get, if_neg (show ¬ a = i from fun e => hi e.symm)] using this

/-! ## The block's accesses -/

theorem State.memRead1_ok {s : State} {a : Nat} {v : Byte} :
    s.memRead1 a = .ok v ↔ a + 1 ≤ s.par.bufSize.val ∧ s.buf.get a = some v := by
  unfold State.memRead1
  cases s.buf.get a <;> by_cases h : a + 1 ≤ s.par.bufSize.val <;> simp [h]

theorem State.memRead1_error {s : State} {a : Nat} {f : Fault} :
    s.memRead1 a = .error f ↔
      (¬ a + 1 ≤ s.par.bufSize.val ∧ f = .bufBounds) ∨
      (a + 1 ≤ s.par.bufSize.val ∧ s.buf.get a = none ∧ f = .unwrittenRead) := by
  unfold State.memRead1
  cases s.buf.get a <;> by_cases h : a + 1 ≤ s.par.bufSize.val <;> simp [h, eq_comm]

theorem State.memRead2_ok {s : State} {a : Nat} {v : Word} :
    s.memRead2 a = .ok v ↔ a + 2 ≤ s.par.bufSize.val ∧ ∃ lo hi, s.buf.get a = some lo ∧
      s.buf.get (a + 1) = some hi ∧ v = crcOfBytes s.par.order lo hi := by
  unfold State.memRead2
  cases s.buf.get a <;> cases s.buf.get (a + 1) <;> by_cases h : a + 2 ≤ s.par.bufSize.val <;> simp [h, eq_comm]

theorem State.memRead2_error {s : State} {a : Nat} {f : Fault} :
    s.memRead2 a = .error f ↔
      (¬ a + 2 ≤ s.par.bufSize.val ∧ f = .bufBounds) ∨
      (a + 2 ≤ s.par.bufSize.val ∧ (s.buf.get a = none ∨ s.buf.get (a + 1) = none) ∧ f = .unwrittenRead) := by
  unfold State.memRead2
  cases s.buf.get a <;> cases s.buf.get (a + 1) <;> by_cases h : a + 2 ≤ s.par.bufSize.val <;> simp [h, eq_comm]

theorem State.memWrite1_ok {s t : State} {a : Nat} {v : Byte} :
    s.memWrite1 a v = .ok t ↔ a + 1 ≤ s.par.bufSize.val ∧ t = { s with buf := s.buf.set a v } := by
  unfold State.memWrite1; split <;> simp_all [eq_comm]

theorem State.memWrite1_error {s : State} {a : Nat} {v : Byte} {f : Fault} :
    s.memWrite1 a v = .error f ↔ ¬ a + 1 ≤ s.par.bufSize.val ∧ f = .bufBounds := by
  unfold State.memWrite1; split <;> simp_all [eq_comm]

theorem State.memWrite2_ok {s t : State} {a : Nat} {v : Word} :
    s.memWrite2 a v = .ok t ↔ a + 2 ≤ s.par.bufSize.val ∧
      t = { s with buf := (s.buf.set a (crcBytes s.par.order v).1).set (a + 1) (crcBytes s.par.order v).2 } := by
  unfold State.memWrite2; split <;> simp_all [eq_comm]

theorem State.memWrite2_error {s : State} {a : Nat} {v : Word} {f : Fault} :
    s.memWrite2 a v = .error f ↔ ¬ a + 2 ≤ s.par.bufSize.val ∧ f = .bufBounds := by
  unfold State.memWrite2; split <;> simp_all [eq_comm]

/-- A one-byte write keeps the canonical form. -/
theorem State.memWrite1_wf {s t : State} {a : Nat} {v : Byte} (h : s.memWrite1 a v = .ok t)
    (hw : Memory.wf s.par.bufSize.val s.buf = true) : Memory.wf t.par.bufSize.val t.buf = true := by
  obtain ⟨ha, rfl⟩ := State.memWrite1_ok.mp h
  exact Memory.wf_set v hw ha

/-- A two-byte write keeps the canonical form. -/
theorem State.memWrite2_wf {s t : State} {a : Nat} {v : Word} (h : s.memWrite2 a v = .ok t)
    (hw : Memory.wf s.par.bufSize.val s.buf = true) : Memory.wf t.par.bufSize.val t.buf = true := by
  obtain ⟨ha, rfl⟩ := State.memWrite2_ok.mp h
  exact Memory.wf_set _ (Memory.wf_set _ hw (Nat.lt_of_succ_lt ha)) ha

/-- The two bytes of a CRC, read back in the same order, are that CRC (R53). -/
theorem crcOfBytes_crcBytes (o : ByteOrder) (v : Word) :
    crcOfBytes o (crcBytes o v).1 (crcBytes o v).2 = v := by
  cases o <;> simp only [crcOfBytes, crcBytes] <;> exact BitVec.extractLsb'_append_extractLsb'_eq_extractLsb' rfl |>.trans (by simp)

theorem orFault_next {α : Type} {r : Except Fault α} {k : α → Result} {t : State} :
    orFault r k = .next t ↔ ∃ v, r = .ok v ∧ k v = .next t := by
  unfold orFault; cases r <;> simp

end Sys2Proof.Machine
end

