-- ==== Sys2Proof/Laws/Ops.lean ====
section
/-! SUPPORT. One lemma per shared operation and per meaning: everything it can answer. Provers cite these and do not unfold
the operations. -/

namespace Sys2Proof.Machine

/-! ## The transport -/

/-- Everything `RxPoll()` can answer (R61). -/
theorem State.rxPoll_cases (s : State) :
    (s.rxs = [] ∧ s.rxPoll = (none, s)) ∨
    (∃ c rest, s.rxs = c :: rest ∧ s.rxAvailable = false ∧ s.rxPoll = (none, s.spendDraw)) ∨
    (∃ c rest, s.rxs = c :: rest ∧ s.rxAvailable = true ∧ s.rxPoll = (some c, s.takeChar)) := by
  cases h : s.rxs with
  | nil => exact .inl ⟨rfl, by simp [State.rxPoll, h]⟩
  | cons c rest =>
    cases ha : s.rxAvailable
    · exact .inr (.inl ⟨c, rest, rfl, rfl, by simp [State.rxPoll, h, ha]⟩)
    · exact .inr (.inr ⟨c, rest, rfl, rfl, by simp [State.rxPoll, h, ha]⟩)

/-! ## DECODE -/

/-- The state after `append(v)` of R130 has stored and counted the byte. -/
def State.appended (s : State) (v : Byte) : State :=
  let s1 : State := { s with buf := s.buf.set s.cnt.toNat v, cnt := s.cnt + 1 }
  if s.cnt + 1 = s.len then s1.complete (zext16 s.len) else s1

/-- Everything `append(v)` can answer (R51, R130). -/
theorem State.appendByte_eq (s : State) (v : Byte) :
    s.appendByte v =
      if s.cnt.toNat + 1 ≤ s.par.bufSize.val then .next (s.appended v) else .fault .bufBounds := by
  unfold State.appendByte State.memWrite1 State.appended
  split
  · simp only [orFault]; split <;> rfl
  · rfl

theorem State.appendByte_next {s t : State} {v : Byte} :
    s.appendByte v = .next t ↔ s.cnt.toNat + 1 ≤ s.par.bufSize.val ∧ t = s.appended v := by
  rw [State.appendByte_eq]; split <;> simp_all [eq_comm]

/-- Everything an `append` that runs can leave: the completed operation, or the next step of D1. -/
theorem State.appended_cases (s : State) (v : Byte) :
    (s.cnt + 1 = s.len ∧ s.appended v =
      ({ s with buf := s.buf.set s.cnt.toNat v, cnt := s.cnt + 1 } : State).complete (zext16 s.len)) ∨
    (s.cnt + 1 ≠ s.len ∧ s.appended v = { s with buf := s.buf.set s.cnt.toNat v, cnt := s.cnt + 1 }) := by
  unfold State.appended
  by_cases h : s.cnt + 1 = s.len
  · exact .inl ⟨h, if_pos h⟩
  · exact .inr ⟨h, if_neg h⟩

/-- Everything step D1 can answer. -/
theorem decodeD1_next {s t : State} (h : decodeD1 s = .next t) :
    (s.rxs = [] ∧ t = s) ∨
    (s.rxs ≠ [] ∧ s.rxAvailable = false ∧ t = s.spendDraw) ∨
    (∃ c rest, s.rxs = c :: rest ∧ s.rxAvailable = true ∧
      ((s.mode = .normal ∧ c = s.par.endC ∧ s.cnt ≠ 0 ∧
          t = (s.takeChar.drive c).complete (zext16 s.cnt)) ∨
       (s.mode = .normal ∧ c = s.par.endC ∧ s.cnt = 0 ∧ t = s.takeChar.drive c) ∨
       (s.mode = .normal ∧ c ≠ s.par.endC ∧ c = s.par.escC ∧ t = (s.takeChar.drive c).setMode .escaped) ∨
       (s.mode = .normal ∧ c ≠ s.par.endC ∧ c ≠ s.par.escC ∧ s.cnt.toNat + 1 ≤ s.par.bufSize.val ∧
          t = (s.takeChar.drive c).appended c) ∨
       (s.mode = .escaped ∧ s.cnt.toNat + 1 ≤ s.par.bufSize.val ∧
          t = ((s.takeChar.drive c).setMode .normal).appended (translateByte s.par c)))) := by
  unfold decodeD1 at h
  obtain ⟨hr, hp⟩ | ⟨c, rest, hr, ha, hp⟩ | ⟨c, rest, hr, ha, hp⟩ := s.rxPoll_cases
  · rw [hp] at h; cases h; exact .inl ⟨hr, rfl⟩
  · rw [hp] at h; cases h; exact .inr (.inl ⟨by simp [hr], ha, rfl⟩)
  · refine .inr (.inr ⟨c, rest, hr, ha, ?_⟩)
    rw [hp] at h
    have hz' : s.cnt.toNat = 0 ↔ s.cnt = 0 := by rw [← BitVec.toNat_inj]; rfl
    have hz : 0 < s.cnt.toNat ↔ s.cnt ≠ 0 := by rw [Nat.pos_iff_ne_zero, ne_eq, hz']
    cases hm : s.mode
    · simp only [State.drive_mode, State.takeChar_mode, hm, State.drive_det, State.takeChar_par, State.takeChar_cnt,
        detect, frameEnd, noise, isEnd, isEsc, State.drive_cnt] at h
      by_cases he : c = s.par.endC
      · by_cases h0 : s.cnt = 0
        · simp only [he, beq_self_eq_true, Bool.and_self, hz'.mpr h0, lt_self_iff_false, decide_false, decide_true,
            Bool.and_false, Bool.false_eq_true, if_false, if_true] at h
          cases h; exact .inr (.inl ⟨rfl, he, h0, by rw [he]⟩)
        · have : 0 < s.cnt.toNat := hz.mpr h0
          simp only [he, beq_self_eq_true, Bool.and_self, this, decide_true, if_true] at h
          cases h; exact .inl ⟨rfl, he, h0, by rw [he]⟩
      · by_cases hs : c = s.par.escC
        · subst hs
          simp only [beq_eq_false_iff_ne.mpr he, bne, Bool.and_false, Bool.false_and, Bool.false_eq_true, if_false,
            Bool.not_false, beq_self_eq_true, Bool.and_self, if_true] at h
          cases h; simp [he]
        · simp only [beq_eq_false_iff_ne.mpr he, beq_eq_false_iff_ne.mpr hs, Bool.and_false, Bool.false_and,
            Bool.false_eq_true, if_false, State.appendByte_next] at h
          refine .inr (.inr (.inr (.inl ⟨rfl, he, hs, ?_, ?_⟩)))
          · simpa using h.1
          · exact h.2
    · simp only [State.drive_mode, State.takeChar_mode, hm, State.appendByte_next] at h
      refine .inr (.inr (.inr (.inr ⟨rfl, ?_, ?_⟩)))
      · simpa using h.1
      · simpa [detect] using h.2

/-! ## Commands -/

/-- What issuing a command at IDLE leaves: the command started, or, while reset is asserted, registers of which nothing
is known. -/
def State.issued (s : State) (op : BitVec 3) (len : Byte) (off : Option Byte) (q : Seq) : State :=
  if s.resetHeld then s.issueInReset off
  else ({ s with op := op, len := len, off := off.getD s.off } : State).start q

theorem State.issue_next {s t : State} {op : BitVec 3} {len : Byte} {off : Option Byte} {q : Seq} :
    s.issue op len off q = .next t ↔ s.busy = false ∧ t = s.issued op len off q := by
  unfold State.issue State.issued; cases s.busy <;> cases s.resetHeld <;> simp [eq_comm]

theorem inProgress_next {b : Bool} {r : Result} {t : State} : inProgress b r = .next t ↔ b = true ∧ r = .next t := by
  unfold inProgress; cases b <;> simp

@[simp] theorem State.hasLen_self (s : State) : s.hasLen s.len = true := by simp [State.hasLen]

@[simp] theorem State.hasLenOff_self (s : State) : s.hasLenOff s.len s.off = true := by simp [State.hasLenOff]

@[simp] theorem inProgress_true (r : Result) : inProgress true r = r := rfl

/-- Everything DECODE can answer with a next state. -/
theorem execDecode_next {len off : Byte} {s t : State} (h : execDecode len off s = .next t) :
    (s.seq = .idle ∧ s.busy = false ∧ t = s.issued 0 len none .d0) ∨
    (s.seq = .d0 ∧ s.len = len ∧ decodeD0 s = .next t) ∨ (s.seq = .d1 ∧ s.len = len ∧ decodeD1 s = .next t) := by
  unfold execDecode at h
  split at h <;> simp_all [State.issue_next, inProgress_next, State.hasLen]

/-- Everything ENCODE can answer with a next state. -/
theorem execEncode_next {len off : Byte} {s t : State} (h : execEncode len off s = .next t) :
    (s.seq = .idle ∧ s.busy = false ∧ t = s.issued 1 len none .e0) ∨
    (s.seq = .e0 ∧ s.len = len ∧ encodeE0 s = .next t) ∨ (s.seq = .e1 ∧ s.len = len ∧ encodeE1 s = .next t) ∨
    (s.seq = .e2 ∧ s.len = len ∧ encodeE2 s = .next t) ∨ (s.seq = .e3 ∧ s.len = len ∧ encodeE3 s = .next t) := by
  unfold execEncode at h
  split at h <;> simp_all [State.issue_next, inProgress_next, State.hasLen]

/-- Everything step E1 can answer with a next state. -/
theorem encodeE1_next {s t : State} (h : encodeE1 s = .next t) :
    ∃ b, s.idx.toNat + 1 ≤ s.par.bufSize.val ∧ s.buf.get s.idx.toNat = some b ∧
      ((b = s.par.endC ∧ t = s.sendEscape s.par.escEnd) ∨
       (b ≠ s.par.endC ∧ b = s.par.escC ∧ t = s.sendEscape s.par.escEsc) ∨
       (b ≠ s.par.endC ∧ b ≠ s.par.escC ∧ t = (s.txSend b).advance s.seq)) := by
  obtain ⟨b, hb, ht⟩ := orFault_next.mp h
  obtain ⟨hi, hg⟩ := State.memRead1_ok.mp hb
  refine ⟨b, hi, hg, ?_⟩
  split at ht
  · cases ht; exact .inl ⟨‹_›, rfl⟩
  · split at ht
    · cases ht; exact .inr (.inl ⟨‹_›, ‹_›, rfl⟩)
    · cases ht; exact .inr (.inr ⟨‹_›, ‹_›, rfl⟩)

/-- Everything VERIFY can answer with a next state. -/
theorem execVerify_next {len off : Byte} {s t : State} (h : execVerify len off s = .next t) :
    (s.seq = .idle ∧ s.busy = false ∧ t = s.issued 2 len (some off) .v0) ∨
    (s.len = len ∧ s.off = off ∧
      ((s.seq = .v0 ∧ verifyV0 s = .next t) ∨ (s.seq = .v1 ∧ verifyV1 s = .next t) ∨
       (s.seq = .v2 ∧ verifyV2 s = .next t) ∨ (s.seq = .v3 ∧ verifyV3 s = .next t) ∨
       (s.seq = .v4 ∧ verifyV4 s = .next t))) := by
  unfold execVerify at h
  split at h <;> simp_all [State.issue_next, inProgress_next, State.hasLenOff]

theorem verifyPrecondition_iff {len off : Byte} :
    verifyPrecondition len off = true ↔ off.toNat + 2 ≤ len.toNat := by
  unfold verifyPrecondition
  simp only [Bool.and_eq_true, bne_iff_ne, ne_eq, decide_eq_true_eq, and_iff_right_iff_imp]
  rintro h rfl; simp at h

theorem verifyV1_next {s t : State} (h : verifyV1 s = .next t) :
    ∃ v, s.memRead2 s.off.toNat = .ok v ∧ t = { s with rcrc := v, seq := .v2 } := by
  obtain ⟨v, hv, ht⟩ := orFault_next.mp h; cases ht; exact ⟨v, hv, rfl⟩

theorem verifyV2_next {s t : State} (h : verifyV2 s = .next t) :
    ∃ s1, s.memWrite2 s.off.toNat 0 = .ok s1 ∧ t = { s1.crcClear with idx := 0, seq := .v3 } := by
  obtain ⟨v, hv, ht⟩ := orFault_next.mp h; cases ht; exact ⟨v, hv, rfl⟩

theorem verifyV3_next {s t : State} (h : verifyV3 s = .next t) :
    ∃ b, s.idx.toNat + 1 ≤ s.par.bufSize.val ∧ s.buf.get s.idx.toNat = some b ∧
      t = { s.crcFold b with idx := s.idx + 1, seq := if (s.idx + 1).toNat = s.len.toNat then .v4 else .v3 } := by
  obtain ⟨v, hv, ht⟩ := orFault_next.mp h; cases ht
  obtain ⟨hi, hg⟩ := State.memRead1_ok.mp hv
  exact ⟨v, hi, hg, rfl⟩

/-- Everything APPEND can answer with a next state. -/
theorem execAppend_next {len off : Byte} {s t : State} (h : execAppend len off s = .next t) :
    (s.seq = .idle ∧ s.busy = false ∧ t = s.issued 3 len none .a0) ∨
    (s.seq = .a0 ∧ s.len = len ∧ appendA0 s = .next t) ∨ (s.seq = .a1 ∧ s.len = len ∧ appendA1 s = .next t) ∨
    (s.seq = .a2 ∧ s.len = len ∧ appendA2 s = .next t) := by
  unfold execAppend at h
  split at h <;> simp_all [State.issue_next, inProgress_next, State.hasLen]

theorem appendA0_next {s t : State} (h : appendA0 s = .next t) :
    ∃ s1, s.memWrite2 s.len.toNat 0 = .ok s1 ∧ t = { s1.crcClear with idx := 0, seq := .a1 } := by
  obtain ⟨v, hv, ht⟩ := orFault_next.mp h; cases ht; exact ⟨v, hv, rfl⟩

theorem appendA1_next {s t : State} (h : appendA1 s = .next t) :
    ∃ b, s.idx.toNat + 1 ≤ s.par.bufSize.val ∧ s.buf.get s.idx.toNat = some b ∧
      t = { s.crcFold b with idx := s.idx + 1, seq := if (s.idx + 1).toNat = s.len.toNat + 2 then .a2 else .a1 } := by
  obtain ⟨v, hv, ht⟩ := orFault_next.mp h; cases ht
  obtain ⟨hi, hg⟩ := State.memRead1_ok.mp hv
  exact ⟨v, hi, hg, rfl⟩

theorem appendA2_next {s t : State} (h : appendA2 s = .next t) :
    ∃ s1, s.memWrite2 s.len.toNat s.crc = .ok s1 ∧ t = s1.complete (appendTotal s1.len) := by
  obtain ⟨v, hv, ht⟩ := orFault_next.mp h; cases ht; exact ⟨v, hv, rfl⟩

/-! ## The host port -/

theorem execReserved_not_next {op : BitVec 3} {len off : Byte} {s t : State} : execReserved op len off s ≠ .next t := by
  unfold execReserved; split <;> simp

/-- `GO` answers a next state exactly when its precondition holds: it starts the operation (R230), or, while reset is
asserted, nothing (R280). -/
theorem execGo_next {s t : State} :
    execGo s = .next t ↔
      s.busy = false ∧ ∃ q, Seq.first s.op = some q ∧ t = if s.resetHeld then s else s.start q := by
  unfold execGo
  cases s.busy
  · cases hq : Seq.first s.op
    · simp [execReserved_not_next]
    · constructor
      · intro h; cases h; exact ⟨rfl, _, rfl, rfl⟩
      · rintro ⟨_, q, hq, rfl⟩; cases hq; rfl
  · simp

end Sys2Proof.Machine
end

