-- ==== Sys2Proof/Laws/PerInstr.lean ====
section
/-! SUPPORT. A family of statements about every instruction as syntax, one lemma per constructor. -/

namespace Sys2Proof.Laws

/-- How many bytes a code of a stream has (30_encoding R87; R81 and R82: one character; 10_state section 2: one register
number). -/
def EncodeShape.width : Stream → Nat
  | .command => 3
  | .receive _ => 1
  | .transmit => 1
  | .hostRegister => 1

/-- The code of an instruction, where it has one, has the length of its stream's codes. -/
def EncodeShape.Statement (i : Instr) : Prop :=
  ∀ (p : Params) (st : Stream) (bytes : List Byte), encode p i = some (st, bytes) → bytes.length = EncodeShape.width st

/-- An instruction with a code satisfies the statement if that code has the right length. -/
theorem EncodeShape.of_code {i : Instr} (h : ∀ p, ∃ c, encode p i = some c ∧ c.2.length = EncodeShape.width c.1) :
    EncodeShape.Statement i := by
  intro p st bytes he
  obtain ⟨c, hc, hw⟩ := h p
  obtain rfl : c = (st, bytes) := Option.some.inj (hc.symm.trans he)
  exact hw

/-- An instruction without a code satisfies the statement. -/
theorem EncodeShape.of_none {i : Instr} (h : ∀ p, encode p i = none) : EncodeShape.Statement i := by
  intro p st bytes he
  rw [h p] at he
  cases he

theorem EncodeShape.decode (len off : Byte) : EncodeShape.Statement (.decode len off) :=
  EncodeShape.of_code fun _ => ⟨_, rfl, rfl⟩

theorem EncodeShape.encode (len off : Byte) : EncodeShape.Statement (.encode len off) :=
  EncodeShape.of_code fun _ => ⟨_, rfl, rfl⟩

theorem EncodeShape.verify (len off : Byte) : EncodeShape.Statement (.verify len off) :=
  EncodeShape.of_code fun _ => ⟨_, rfl, rfl⟩

theorem EncodeShape.append (len off : Byte) : EncodeShape.Statement (.append len off) :=
  EncodeShape.of_code fun _ => ⟨_, rfl, rfl⟩

theorem EncodeShape.reserved (op : BitVec 3) (len off : Byte) : EncodeShape.Statement (.reserved op len off) :=
  EncodeShape.of_code fun _ => ⟨_, rfl, rfl⟩

theorem EncodeShape.rxEnd : EncodeShape.Statement .rxEnd := EncodeShape.of_code fun _ => ⟨_, rfl, rfl⟩

theorem EncodeShape.rxEsc : EncodeShape.Statement .rxEsc := EncodeShape.of_code fun _ => ⟨_, rfl, rfl⟩

theorem EncodeShape.rxData (c : Byte) : EncodeShape.Statement (.rxData c) :=
  EncodeShape.of_code fun _ => ⟨_, rfl, rfl⟩

theorem EncodeShape.rxXlEnd : EncodeShape.Statement .rxXlEnd := EncodeShape.of_code fun _ => ⟨_, rfl, rfl⟩

theorem EncodeShape.rxXlEsc : EncodeShape.Statement .rxXlEsc := EncodeShape.of_code fun _ => ⟨_, rfl, rfl⟩

theorem EncodeShape.rxXlOther (c : Byte) : EncodeShape.Statement (.rxXlOther c) :=
  EncodeShape.of_code fun _ => ⟨_, rfl, rfl⟩

theorem EncodeShape.txEscapeEnd : EncodeShape.Statement .txEscapeEnd := EncodeShape.of_code fun _ => ⟨_, rfl, rfl⟩

theorem EncodeShape.txEscapeEsc : EncodeShape.Statement .txEscapeEsc := EncodeShape.of_code fun _ => ⟨_, rfl, rfl⟩

theorem EncodeShape.txData (c : Byte) : EncodeShape.Statement (.txData c) :=
  EncodeShape.of_code fun _ => ⟨_, rfl, rfl⟩

theorem EncodeShape.txDelimiter : EncodeShape.Statement .txDelimiter := EncodeShape.of_none fun _ => rfl

theorem EncodeShape.crcclr : EncodeShape.Statement .crcclr := EncodeShape.of_none fun _ => rfl

theorem EncodeShape.crcupd (c : Byte) : EncodeShape.Statement (.crcupd c) := EncodeShape.of_none fun _ => rfl

theorem EncodeShape.classify (c : Byte) : EncodeShape.Statement (.classify c) := EncodeShape.of_none fun _ => rfl

theorem EncodeShape.boundary (c : Byte) : EncodeShape.Statement (.boundary c) := EncodeShape.of_none fun _ => rfl

theorem EncodeShape.xlate (c : Byte) : EncodeShape.Statement (.xlate c) := EncodeShape.of_none fun _ => rfl

theorem EncodeShape.go : EncodeShape.Statement .go := EncodeShape.of_code fun _ => ⟨_, rfl, rfl⟩

end Sys2Proof.Laws
end

