-- ==== Sys2Proof/Laws/Step.lean ====
section
/-! SUPPORT. Everything one step of the machine can do. -/

namespace Sys2Proof.Machine

/-- The step label a command starts at belongs to that command, and no working register is live there. -/
theorem Seq.first_some {op : BitVec 3} {q : Seq} (h : Seq.first op = some q) :
    q.opCode = some op ∧ q.fresh = true ∧ q ≠ .idle := by
  revert h; revert q op; decide

/-- Everything `hostAccess` can answer with a next state (R232, R233). -/
theorem hostAccess_next {a : HostAccess} {s t : State} (h : hostAccess a s = .next t) :
    (∃ v, t = s.observe v) ∨
    (∃ v, t = ({ s with draws := s.draws + 1 } : State).observe v) ∨
    (s.busy = false ∧
      ((∃ v n, t = { s with op := v, draws := n }) ∨ (∃ v n, t = { s with len := v, draws := n }) ∨
       (∃ v n, t = { s with off := v, draws := n }) ∨
       (∃ i v, a = .writeBuf i v ∧ i.toNat < s.par.bufSize.val ∧
         t = if s.resetHeld then s else { s with buf := s.buf.set i.toNat v }) ∨
       execGo s = .next t)) := by
  unfold hostAccess at h
  by_cases hb : s.busy = true
  swap
  · rw [if_neg hb] at h
    rw [Bool.not_eq_true] at hb
    cases a with
    | readReg n =>
      simp only at h
      split at h
      · rename_i r _
        cases h
        cases r with
        | go => exact .inr (.inl ⟨_, rfl⟩)
        | op => exact .inl ⟨_, rfl⟩
        | len => exact .inl ⟨_, rfl⟩
        | off => exact .inl ⟨_, rfl⟩
        | status => exact .inl ⟨_, rfl⟩
        | res => exact .inl ⟨_, rfl⟩
      · cases h
    | writeReg n v =>
      simp only at h
      refine .inr (.inr ⟨hb, ?_⟩)
      split at h
      · rename_i r _
        cases r with
        | op =>
          cases h
          refine .inl ?_
          by_cases hr : s.resetHeld = true
          · exact ⟨_, _, if_pos hr⟩
          · exact ⟨_, _, if_neg hr⟩
        | len =>
          cases h
          refine .inr (.inl ?_)
          by_cases hr : s.resetHeld = true
          · exact ⟨_, _, if_pos hr⟩
          · exact ⟨_, _, if_neg hr⟩
        | off =>
          cases h
          refine .inr (.inr (.inl ?_))
          by_cases hr : s.resetHeld = true
          · exact ⟨_, _, if_pos hr⟩
          · exact ⟨_, _, if_neg hr⟩
        | go => exact .inr (.inr (.inr (.inr h)))
        | status => cases h
        | res => cases h
      · cases h
    | readBuf i =>
      simp only at h
      split at h
      · split at h
        · cases h; exact .inl ⟨_, rfl⟩
        · cases h
      · cases h
    | writeBuf i v =>
      simp only at h
      split at h
      · cases h; exact .inr (.inr ⟨hb, .inr (.inr (.inr (.inl ⟨i, v, rfl, ‹_›, rfl⟩)))⟩)
      · cases h
  · rw [if_pos hb] at h
    split at h
    · cases h; exact .inl ⟨_, rfl⟩
    · cases h

/-- The block's move is the command in the registers, at a step of the sequencer. -/
theorem State.blockMove_cases (s : State) :
    (s.seq = .idle ∧ s.blockMove = .rest) ∨ (s.seq ≠ .idle ∧ s.blockMove = .run s.command) := by
  unfold State.blockMove
  by_cases h : s.seq = .idle <;> simp [h]

/-- Where the next move comes from. -/
theorem State.nextMove_cases (s : State) :
    ((s.inputs = [] ∨ ∃ rest, s.inputs = .quiet :: rest) ∧ s.nextMove = s.blockMove) ∨
    (∃ v rest, s.inputs = .host (.writeReg 3 v) :: rest ∧ s.nextMove = .run .go) ∨
    (∃ a rest, s.inputs = .host a :: rest ∧ (∀ v, a ≠ .writeReg 3 v) ∧ s.nextMove = .access a) ∨
    (∃ c rest, s.inputs = .arrive c :: rest ∧ s.nextMove = .arrive c) ∨
    (∃ rest, s.inputs = .assertReset :: rest ∧ s.nextMove = .assertReset) ∨
    (∃ rest, s.inputs = .releaseReset :: rest ∧ s.nextMove = .releaseReset) := by
  unfold State.nextMove
  cases s.inputs with
  | nil => exact .inl ⟨.inl rfl, rfl⟩
  | cons i rest =>
    cases i with
    | quiet => exact .inl ⟨.inr ⟨rest, rfl⟩, rfl⟩
    | host a =>
      cases a with
      | writeReg n v =>
        by_cases h : n = 3
        · subst h; exact .inr (.inl ⟨v, rest, rfl, by simp [HostAccess.move]⟩)
        · exact .inr (.inr (.inl ⟨_, rest, rfl, fun w e => h (HostAccess.writeReg.inj e).1, if_neg h⟩))
      | readReg n => exact .inr (.inr (.inl ⟨_, rest, rfl, by simp, rfl⟩))
      | writeBuf j v => exact .inr (.inr (.inl ⟨_, rest, rfl, by simp, rfl⟩))
      | readBuf j => exact .inr (.inr (.inl ⟨_, rest, rfl, by simp, rfl⟩))
    | arrive c => exact .inr (.inr (.inr (.inl ⟨c, rest, rfl, rfl⟩)))
    | assertReset => exact .inr (.inr (.inr (.inr (.inl ⟨rest, rfl, rfl⟩))))
    | releaseReset => exact .inr (.inr (.inr (.inr (.inr ⟨rest, rfl, rfl⟩))))

/-- A command in the registers runs as the operation `OP` selects. -/
theorem exec_command (s u : State) :
    (s.op = 0 ∧ exec s.command u = execDecode s.len s.off u) ∨
    (s.op = 1 ∧ exec s.command u = execEncode s.len s.off u) ∨
    (s.op = 2 ∧ exec s.command u = execVerify s.len s.off u) ∨
    (s.op = 3 ∧ exec s.command u = execAppend s.len s.off u) ∨
    (Seq.first s.op = none ∧ exec s.command u = execReserved s.op s.len s.off u) := by
  have h : s.op = 0 ∨ s.op = 1 ∨ s.op = 2 ∨ s.op = 3 ∨ s.op = 4 ∨ s.op = 5 ∨ s.op = 6 ∨ s.op = 7 := by
    generalize s.op = o; revert o; decide
  unfold State.command
  rcases h with h | h | h | h | h | h | h | h <;> rw [h]
  · exact .inl ⟨rfl, rfl⟩
  · exact .inr (.inl ⟨rfl, rfl⟩)
  · exact .inr (.inr (.inl ⟨rfl, rfl⟩))
  · exact .inr (.inr (.inr (.inl ⟨rfl, rfl⟩)))
  · exact .inr (.inr (.inr (.inr ⟨rfl, rfl⟩)))
  · exact .inr (.inr (.inr (.inr ⟨rfl, rfl⟩)))
  · exact .inr (.inr (.inr (.inr ⟨rfl, rfl⟩)))
  · exact .inr (.inr (.inr (.inr ⟨rfl, rfl⟩)))

/-- Everything a step can do that answers a next state: an idle block rests, the command in the registers runs a step,
`GO` starts an operation, the host accesses its port, a character arrives, the reset input is asserted or
released. -/
theorem step_next {s t : State} (h : step s = .next t) :
    s.par.ok = true ∧
    ((s.seq = .idle ∧ s.nextMove = .rest ∧ t = s.takeInput) ∨
     (s.seq ≠ .idle ∧ s.nextMove = .run s.command ∧ exec s.command s.takeInput = .next t) ∨
     (s.nextMove = .run .go ∧ execGo s.takeInput = .next t) ∨
     (∃ a, s.nextMove = .access a ∧ (∀ v, a ≠ .writeReg 3 v) ∧ hostAccess a s.takeInput = .next t) ∨
     (∃ c, s.nextMove = .arrive c ∧ t = s.takeInput.arrive c) ∨
     (s.nextMove = .assertReset ∧ t = s.takeInput.assertReset) ∨
     (s.nextMove = .releaseReset ∧ t = s.takeInput.releaseReset)) := by
  unfold step at h
  split at h
  · refine ⟨‹_›, ?_⟩
    rcases s.nextMove_cases with ⟨_, hm⟩ | ⟨v, rest, _, hm⟩ | ⟨a, rest, _, ha, hm⟩ | ⟨c, rest, _, hm⟩ | ⟨rest, _, hm⟩ |
      ⟨rest, _, hm⟩
    · rcases s.blockMove_cases with ⟨hs, hb⟩ | ⟨hs, hb⟩
      · rw [hm, hb] at h; cases h; exact .inl ⟨hs, hm.trans hb, rfl⟩
      · rw [hm, hb] at h; exact .inr (.inl ⟨hs, hm.trans hb, h⟩)
    · rw [hm] at h; exact .inr (.inr (.inl ⟨hm, h⟩))
    · rw [hm] at h; exact .inr (.inr (.inr (.inl ⟨a, hm, ha, h⟩)))
    · rw [hm] at h; cases h; exact .inr (.inr (.inr (.inr (.inl ⟨c, hm, rfl⟩))))
    · rw [hm] at h; cases h; exact .inr (.inr (.inr (.inr (.inr (.inl ⟨hm, rfl⟩)))))
    · rw [hm] at h; cases h; exact .inr (.inr (.inr (.inr (.inr (.inr ⟨hm, rfl⟩)))))
  · cases h

/-! ## Runs -/

@[simp] theorem run_zero (s : State) : run 0 s = .next s := rfl

theorem run_succ (k : Nat) (s : State) :
    run (k + 1) s = match step s with
      | .next t => run k t
      | .fault f => .fault f
      | .refused r => .refused r := by
  have h : core.step s = step s := rfl
  simp only [run, Host.Core.run, h]
  cases step s <;> rfl

theorem run_succ_next {k : Nat} {s t : State} (h : step s = .next t) : run (k + 1) s = run k t := by
  rw [run_succ, h]

theorem run_add {j k : Nat} {s t : State} (h : run j s = .next t) : run (j + k) s = run k t := by
  induction j generalizing s with
  | zero => cases h; rw [Nat.zero_add]
  | succ j ih =>
    rw [Nat.succ_add_eq_add_succ, Nat.add_succ, run_succ]
    rw [run_succ] at h
    split at h
    · exact ih h
    · cases h
    · cases h

/-- With nothing pending from outside, a step of a running block is a step of the command in the registers. -/
theorem step_command {s : State} (hp : s.par.ok = true) (hi : s.inputs = []) (hs : s.seq ≠ .idle) :
    step s = exec s.command s := by
  have ht : s.takeInput = s := by
    unfold State.takeInput; rw [hi]; exact congrArg (fun i => ({ s with inputs := i } : State)) hi.symm
  unfold step
  rw [if_pos hp]
  have hm : s.nextMove = .run s.command := by
    unfold State.nextMove; rw [hi]; simp [State.blockMove, hs]
  rw [hm, ht]

end Sys2Proof.Machine
end

