-- ==== Sys2Proof/Tests/Slice0.lean ====
section
/-! SUPPORT. Tests: ill-formed terms, words written out from the spec's encodings, one-step tests from 95_test_vectors, and a
witness for every statement that has hypotheses. -/

namespace Sys2Proof.Machine.Test

/-! ## Helpers -/

/-- `.buf start: bytes` of R93, as `BUF`. -/
def cells : Nat → List Byte → Memory
  | _, [] => []
  | a, v :: rest => (a, v) :: cells (a + 1) rest

/-- A running block at step `q` of its operation, with operands and buffer bytes from index 0. -/
def running (q : Seq) (len off : Byte) (bytes : List Byte) : State :=
  { State.reset with busy := true, seq := q, op := q.opCode.getD 0, len := len, off := off, buf := cells 0 bytes }

/-- An idle block with operands and buffer bytes from index 0. -/
def idle (op : BitVec 3) (len off : Byte) (bytes : List Byte) : State :=
  { State.reset with op := op, len := len, off := off, buf := cells 0 bytes }

/-- A DECODE at D1 with `len` bytes capacity in mode `m` after `cnt` bytes, to which the transport delivers `cs`. -/
def receiving (len : Byte) (m : Mode) (cnt : BitVec 8) (cs : List Byte) : State :=
  { running .d1 len 0 [] with mode := m, cnt := cnt, rxs := cs, polls := cs.map fun _ => true }

/-- As `s`, on an instance with a `BUF_SIZE` of 4. -/
def small (s : State) : State := { s with par := { s.par with bufSize := 4 } }

/-- The given fields of the next state. -/
def after {α : Type} (r : Result) (f : State → α) : Option α := (nextState r).map f

/-! ## Ill-formed terms are refused -/

theorem test_wf_reserved : (Instr.reserved 3 0 0).wf Params.default = false := by decide
theorem test_wf_rxData_end : (Instr.rxData 0xC0).wf Params.default = false := by decide
theorem test_wf_rxData_esc : (Instr.rxData 0xDB).wf Params.default = false := by decide
theorem test_wf_rxXlOther_escEnd : (Instr.rxXlOther 0xDC).wf Params.default = false := by decide
theorem test_wf_rxXlOther_escEsc : (Instr.rxXlOther 0xDD).wf Params.default = false := by decide
theorem test_wf_txData_end : (Instr.txData 0xC0).wf Params.default = false := by decide
theorem test_wf_txData_esc : (Instr.txData 0xDB).wf Params.default = false := by decide

/-- T-H13: each of the four inequalities of R6, broken alone. -/
theorem test_constants_refused :
    ({ Params.default with endC := 0xDB } : Params).ok = false ∧
    ({ Params.default with escEnd := 0xC0 } : Params).ok = false ∧
    ({ Params.default with escEsc := 0xC0 } : Params).ok = false ∧
    ({ Params.default with escEsc := 0xDC } : Params).ok = false := by decide

/-- T-H14: `ESC_END == ESC` is allowed; a payload `END` then goes out as two `ESC`. -/
theorem test_constants_allowed :
    ({ Params.default with escEnd := 0xDB } : Params).ok = true ∧
    wireFrame { Params.default with escEnd := 0xDB } [0xC0] = [0xC0, 0xDB, 0xDB, 0xC0] := by decide

/-! ## Every constructor by a word written out from its encoding (R81, R82, R87, R88, R90, R95) -/

theorem test_decode_commands :
    decode Params.default .command [0xAB, 0xFF, 0x00] = .ok (.decode 0xFF 0xAB) ∧
    decode Params.default .command [0x00, 0x07, 0x01] = .ok (.encode 0x07 0x00) ∧
    decode Params.default .command [0x05, 0x07, 0x02] = .ok (.verify 0x07 0x05) ∧
    decode Params.default .command [0x00, 0x05, 0x03] = .ok (.append 0x05 0x00) ∧
    decode Params.default .command [0x02, 0x01, 0x04] = .ok (.reserved 4 0x01 0x02) ∧
    decode Params.default .command [0x00, 0x00, 0x07] = .ok (.reserved 7 0x00 0x00) := by decide

theorem test_decode_received :
    decode Params.default (.receive .normal) [0xC0] = .ok .rxEnd ∧
    decode Params.default (.receive .normal) [0xDB] = .ok .rxEsc ∧
    decode Params.default (.receive .normal) [0xDD] = .ok (.rxData 0xDD) ∧
    decode Params.default (.receive .escaped) [0xDC] = .ok .rxXlEnd ∧
    decode Params.default (.receive .escaped) [0xDD] = .ok .rxXlEsc ∧
    decode Params.default (.receive .escaped) [0xDB] = .ok (.rxXlOther 0xDB) := by decide

theorem test_decode_payload :
    decode Params.default .transmit [0xC0] = .ok .txEscapeEnd ∧
    decode Params.default .transmit [0xDB] = .ok .txEscapeEsc ∧
    decode Params.default .transmit [0xDC] = .ok (.txData 0xDC) := by decide

theorem test_decode_go : decode Params.default .hostRegister [0x03] = .ok .go := by decide

/-- R91, R95: these rows have no code. -/
theorem test_no_code :
    encode Params.default .txDelimiter = none ∧ encode Params.default .crcclr = none ∧
    encode Params.default (.crcupd 1) = none ∧ encode Params.default (.classify 1) = none ∧
    encode Params.default (.boundary 1) = none ∧ encode Params.default (.xlate 1) = none := by decide

theorem test_decode_rejects :
    decode Params.default .command [0x00, 0x00, 0x08] = .error .commandTooWide ∧
    decode Params.default .command [0x00, 0x00] = .error .wrongLength ∧
    decode Params.default .transmit [] = .error .wrongLength ∧
    decode Params.default .hostRegister [0x04] = .error .notGo := by decide

/-- Table words as numbers: the listings 30300, 10500, 20503, 01000 of 95_test_vectors, and one-byte words. -/
theorem test_table_words :
    decodeTableWord 19 0x30300 = some (.append 3 0) ∧ decodeTableWord 19 0x10500 = some (.encode 5 0) ∧
    decodeTableWord 19 0x20503 = some (.verify 5 3) ∧ decodeTableWord 24 0x01000 = some (.decode 16 0) ∧
    decodeTableWord 19 0x40000 = some (.reserved 4 0 0) ∧ decodeTableWord 8 0xC0 = some .rxEnd ∧
    decodeTableWord 8 0xDB = some .rxEsc ∧ decodeTableWord 8 0xDC = some .rxXlEnd ∧
    decodeTableWord 8 0xDD = some .rxXlEsc ∧ decodeTableWord 8 0x3 = some .go := by decide

/-- A placed word is what the next step runs: `APPEND 3` with unwritten data clears the field (A0), the character `END`
with nothing collected is noise. -/
theorem test_placed_word_runs :
    after (step (State.reset.withFetchWord 19 0x30300)) (fun t => (t.seq, t.buf)) = some (.a1, cells 3 [0, 0]) ∧
    after (step (State.reset.withFetchWord 8 0xC0)) (fun t => (t.seq, t.cnt, t.rxs)) = some (.d1, 0, []) := by decide

/-! ## One step each, from 95_test_vectors -/

/-- T-D12: capacity 0 completes before a character is read. -/
theorem test_decode_capacity_zero :
    after (exec (.decode 0 7) { running .d0 0 0 [] with rxs := [0xDB, 0xDC] })
      (fun t => (t.res, t.busy, t.seq, t.rxs)) = some (0, false, .idle, [0xDB, 0xDC]) := by decide

/-- T-D9: the byte translated in ESCAPED fills the buffer. -/
theorem test_decode_escaped_byte_fills :
    after (exec (.decode 2 0) (receiving 2 .escaped 1 [0xDC, 0xC0]))
      (fun t => (t.buf, t.res, t.seq, t.mode, t.rxs)) = some (cells 1 [0xC0], 2, .idle, .normal, [0xC0]) := by decide

/-- T-E4: `DB` goes out as `DB DD`; this step sends the `DB`. -/
theorem test_encode_escape :
    after (exec (.encode 1 0) (running .e1 1 0 [0xDB])) (fun t => (t.txlog, t.sub, t.seq, t.idx)) =
      some ([0xDB], 0xDD, .e2, 0) := by decide

/-- T-E20: the third byte was never written. -/
theorem test_encode_unwritten :
    faultOf (exec (.encode 3 0) { running .e1 3 0 [1, 2] with idx := 2 }) = some .unwrittenRead := by decide

/-- T-V5: `OFF + 2` is 256, not 0. -/
theorem test_verify_offset_does_not_wrap :
    after (exec (.verify 5 254) (running .v0 5 254 [0x31, 0x32, 0x33, 0x83, 0x73])) (fun t => (t.res, t.seq)) =
      some (0, .idle) := by decide

/-- T-V1, step V1: the field `83 73` is 7383 under LE. -/
theorem test_verify_reads_field :
    after (exec (.verify 5 3) (running .v1 5 3 [0x31, 0x32, 0x33, 0x83, 0x73])) (fun t => (t.rcrc, t.seq)) =
      some (0x7383, .v2) := by decide

/-- T-A4, step A2: 7383 is stored as `83 73`, and the result is 5. -/
theorem test_append_stores_crc :
    after (exec (.append 3 9) { running .a2 3 0 [0x31, 0x32, 0x33, 0, 0] with crc := 0x7383 })
      (fun t => (t.buf, t.res, t.busy)) = some (cells 0 [0x31, 0x32, 0x33, 0x83, 0x73], 5, false) := by decide

/-- T-A14: `LEN` 254 faults at A0. -/
theorem test_append_past_buffer : faultOf (exec (.append 254 0) (running .a0 254 0 [])) = some .bufBounds := by decide

/-- T-H2. -/
theorem test_reserved_refused : refusalOf (exec (.reserved 4 0 0) State.reset) = some .reservedOp := by decide

/-- T-X1 and T-X3: `END` in NORMAL with 0 and with 254 bytes collected. -/
theorem test_rxEnd :
    after (exec .rxEnd (receiving 255 .normal 0 [0xC0])) (fun t => (t.busy, t.det.noise)) = some (true, true) ∧
    after (exec .rxEnd (receiving 255 .normal 254 [0xC0])) (fun t => (t.busy, t.res)) = some (false, 254) := by decide

/-- T-X5: `CNT` stays 7. -/
theorem test_rxEsc :
    after (exec .rxEsc (receiving 9 .normal 7 [0xDB])) (fun t => (t.mode, t.cnt, t.rxs)) = some (.escaped, 7, []) := by
  decide

/-- T-D3: the second byte fills a buffer of 2. -/
theorem test_rxData :
    after (exec (.rxData 2) (receiving 2 .normal 1 [2, 3])) (fun t => (t.buf, t.res, t.rxs)) =
      some (cells 1 [2], 2, [3]) := by decide

/-- T-X10. -/
theorem test_rxXlEnd :
    after (exec .rxXlEnd (receiving 9 .escaped 0 [0xDC])) (fun t => (t.buf, t.mode)) =
      some (cells 0 [0xC0], .normal) := by decide

/-- T-X11. -/
theorem test_rxXlEsc :
    after (exec .rxXlEsc (receiving 9 .escaped 0 [0xDD])) (fun t => (t.buf, t.mode)) =
      some (cells 0 [0xDB], .normal) := by decide

/-- T-X12: `ESC END` is the data byte `END`, and the frame is not closed. -/
theorem test_rxXlOther :
    after (exec (.rxXlOther 0xC0) (receiving 9 .escaped 5 [0xC0])) (fun t => (t.buf, t.mode, t.busy)) =
      some (cells 5 [0xC0], .normal, true) := by decide

/-- T-E3: `C0` goes out as `DB DC`. -/
theorem test_txEscapeEnd :
    after (exec .txEscapeEnd (running .e1 1 0 [0xC0])) (fun t => (t.txlog, t.sub, t.seq)) =
      some ([0xDB], 0xDC, .e2) ∧
    after (exec .txEscapeEnd { running .e2 1 0 [0xC0] with sub := 0xDC }) (fun t => (t.txlog, t.idx, t.seq)) =
      some ([0xDC], 1, .e3) := by decide

/-- T-E8: `DB` goes out as `DB DD`, and a byte follows. -/
theorem test_txEscapeEsc :
    after (exec .txEscapeEsc (running .e1 2 0 [0xDB, 0xDC])) (fun t => (t.txlog, t.sub)) = some ([0xDB], 0xDD) ∧
    after (exec .txEscapeEsc { running .e2 2 0 [0xDB, 0xDC] with sub := 0xDD }) (fun t => (t.txlog, t.seq)) =
      some ([0xDD], .e1) := by decide

/-- T-E12: the 255th byte is the last. -/
theorem test_txData :
    after (exec (.txData 0xDC) { running .e1 255 0 [] with idx := 254 }) (fun t => (t.txlog, t.idx, t.seq)) =
      some ([0xDC], 255, .e3) := by decide

/-- T-E1: an empty frame is two delimiters. -/
theorem test_txDelimiter :
    after (exec .txDelimiter (running .e0 0 0 [])) (fun t => (t.txlog, t.seq)) = some ([0xC0], .e3) ∧
    after (exec .txDelimiter (running .e3 0 0 [])) (fun t => (t.txlog, t.res, t.busy)) =
      some ([0xC0], 0, false) := by decide

theorem test_crcclr : after (exec .crcclr { State.reset with crc := 0xFFFF }) State.crc = some 0 := by decide

/-- T-C, single steps from 1234 with `FF`, from FFFF with `01`. -/
theorem test_crcupd :
    after (exec (.crcupd 0xFF) { State.reset with crc := 0x1234 }) State.crc = some 0x9753 ∧
    after (exec (.crcupd 0x01) { State.reset with crc := 0xFFFF }) State.crc = some 0x807E := by decide

/-- T-C1, the check value; T-C4, the crafted zero. -/
theorem test_crc16 :
    crc16 .arc [0x31, 0x32, 0x33, 0x34, 0x35, 0x36, 0x37, 0x38, 0x39] = 0xBB3D ∧
    crc16 .arc [0x03, 0x40, 0x01, 0x00, 0x00] = 0 := by decide +kernel

/-- T-X1, T-X4. -/
theorem test_classify :
    after (exec (.classify 0xC0) State.reset) (fun t => (t.det.isEnd, t.det.isEsc)) = some (true, false) ∧
    after (exec (.classify 0xDB) State.reset) (fun t => (t.det.isEnd, t.det.isEsc)) = some (false, true) := by decide

/-- T-X2, T-X12. -/
theorem test_boundary :
    after (exec (.boundary 0xC0) { State.reset with cnt := 1 }) (fun t => (t.det.frameEnd, t.det.noise)) =
      some (true, false) ∧
    after (exec (.boundary 0xC0) { State.reset with mode := .escaped, cnt := 5 })
      (fun t => (t.det.frameEnd, t.det.noise)) = some (false, false) := by decide

/-- R114, its examples. -/
theorem test_xlate :
    after (exec (.xlate 0xDD) State.reset) (fun t => t.det.xl) = some 0xDB ∧
    after (exec (.xlate 0x41) State.reset) (fun t => t.det.xl) = some 0x41 := by decide

/-- T-H1, T-H3. -/
theorem test_go :
    after (exec .go (idle 1 0 0 [])) (fun t => (t.busy, t.seq)) = some (true, .e0) ∧
    refusalOf (exec .go (receiving 4 .normal 0 [])) = some .hostWhileBusy := by decide

/-- T-H12: a waiting DECODE is cut short; `RES` is not written, and what was received is not taken back. -/
theorem test_reset_asserted :
    let s : State := { receiving 8 .normal 1 [] with res := 5, buf := cells 0 [0x41], inputs := [.assertReset] }
    after (step s) (fun t => (t.resetHeld, t.busy, t.seq, t.mode)) = some (true, false, .idle, .normal) ∧
    after (step s) (fun t => (t.res, t.buf, t.rxs)) = some (5, [], []) := by decide

/-- R280: while reset is asserted `STATUS` reads 0 and a `GO` write leaves `BUSY` 0. -/
theorem test_while_reset_asserted :
    after (step { State.reset with resetHeld := true, inputs := [.host (.readReg 4)] })
      (fun t => (t.hostRead, t.resetHeld)) = some (some 0, true) ∧
    after (step { State.reset with resetHeld := true, inputs := [.host (.writeReg 3 1)] })
      (fun t => (t.busy, t.seq)) = some (false, .idle) := by decide

/-- T-H7, T-H6, T-H4. -/
theorem test_host_port :
    after (hostAccess (.writeReg 0 0x0B) State.reset) State.op = some 3 ∧
    refusalOf (hostAccess (.writeBuf 255 0) State.reset) = some .hostBufBounds ∧
    refusalOf (hostAccess (.readBuf 0) (receiving 4 .normal 0 [])) = some .hostWhileBusy := by decide

/-! ## Witnesses: the hypotheses of each statement can be met, at the boundary of each clause -/

theorem witness_EncodeThenDecode :
    Params.default.ok = true ∧ (Instr.reserved 7 255 255).wf Params.default = true ∧
    encode Params.default (.reserved 7 255 255) = some (.command, [255, 255, 7]) ∧
    (Instr.rxXlOther 0xC0).wf Params.default = true ∧
    encode Params.default (.rxXlOther 0xC0) = some (.receive .escaped, [0xC0]) := by decide

theorem witness_DecodeThenEncode :
    decode Params.default .command [255, 255, 7] = .ok (.reserved 7 255 255) ∧
    decode Params.default (.receive .escaped) [0xC0] = .ok (.rxXlOther 0xC0) := by decide

theorem witness_StepRunsDecodedInstruction :
    (∀ s ∈ [running .d1 255 0 [], running .e3 0 0 [], running .v4 255 255 [], running .a0 0 255 []],
      s.par.ok = true ∧ s.inputs = [] ∧ s.seq ≠ .idle ∧
        decode s.par .command [s.off, s.len, s.op.setWidth 8] = .ok s.command) ∧
    ({ running .d1 1 0 [] with inputs := [.quiet] } : State).inputs = .quiet :: [] ∧
    ({ State.reset with inputs := [.host (.writeReg 3 0xFFFF)] } : State).inputs = .host (.writeReg 3 0xFFFF) :: [] := by
  decide

theorem witness_PlacedWordRunsNext :
    let s : State := { State.reset with par := { Params.default with bufSize := 1 } }
    s.par.ok = true ∧ 0 < s.par.bufSize.val ∧
    decode s.par .command [1, 255, 2] = .ok (.verify 255 1) ∧ decode s.par .command [0, 0, 4] = .ok (.reserved 4 0 0) ∧
    decode s.par (.receive .escaped) [0xC0] = .ok (.rxXlOther 0xC0) ∧
    decode s.par .transmit [0xC0] = .ok .txEscapeEnd ∧ decode s.par .hostRegister [3] = .ok .go := by decide

theorem witness_StepMakesOtherMoves :
    (State.reset.par.ok = true ∧ State.reset.seq = .idle ∧ State.reset.inputs = []) ∧
    ({ State.reset with inputs := [.quiet] } : State).inputs = .quiet :: [] ∧
    ({ State.reset with inputs := [.arrive 0xC0] } : State).inputs = .arrive 0xC0 :: [] ∧
    (({ State.reset with inputs := [.host (.writeReg 2 0)] } : State).inputs = .host (.writeReg 2 0) :: [] ∧
      ∀ v : Word, HostAccess.writeReg 2 0 ≠ .writeReg 3 v) ∧
    ({ State.reset with par := { Params.default with escC := 0xC0 } } : State).par.ok = false :=
  ⟨by decide, rfl, rfl, ⟨rfl, by simp⟩, by decide⟩

theorem witness_DecodeFirstStep :
    (running .d0 0 0 []).seq = .d0 ∧ (running .d0 0 0 []).len = 0 ∧ (running .d0 1 0 []).seq = .d0 ∧
    (running .d0 1 0 []).len ≠ 0 := by decide

theorem witness_DecodeWaitsForCharacter :
    ((receiving 4 .normal 0 []).seq = .d1 ∧ (receiving 4 .normal 0 []).rxs = []) ∧
    (let s : State := { receiving 4 .normal 0 [1] with polls := [false] };
      s.seq = .d1 ∧ s.rxs ≠ [] ∧ s.rxAvailable = false) := by decide

theorem witness_DecodeRunsReceivedRow :
    let s := receiving 4 .escaped 3 [0xDC]
    s.seq = .d1 ∧ s.rxs = 0xDC :: [] ∧ s.rxAvailable = true := by decide

theorem witness_ReceivedEndAndEscape :
    (receiving 4 .normal 0 [0xC0]).cnt = 0 ∧ (receiving 4 .normal 1 [0xC0]).cnt ≠ 0 := by decide

theorem witness_ReceivedDataIsStored :
    (receiving 255 .normal 254 [1]).cnt.toNat + 1 ≤ (receiving 255 .normal 254 [1]).par.bufSize.val ∧
    (receiving 4 .normal 0 [1]).cnt.toNat + 1 ≤ (receiving 4 .normal 0 [1]).par.bufSize.val := by decide

/-- T-D40. -/
theorem witness_ReceivedDataPastBufferFaults :
    (small (receiving 6 .normal 4 [5])).par.bufSize.val ≤ (small (receiving 6 .normal 4 [5])).cnt.toNat := by decide

theorem witness_ReceiveFrame :
    (∃ t, exec .rxEnd (receiving 4 .normal 1 [0xC0]) = .next t) ∧
    (∃ t, exec .rxEsc (receiving 4 .normal 1 [0xDB]) = .next t) ∧
    (∃ t, exec (.rxData 1) (receiving 255 .normal 254 [1]) = .next t) ∧
    (∃ t, exec .rxXlEnd (receiving 4 .escaped 1 [0xDC]) = .next t) ∧
    (∃ t, exec .rxXlEsc (receiving 4 .escaped 1 [0xDD]) = .next t) ∧
    (∃ t, exec (.rxXlOther 1) (receiving 4 .escaped 3 [1]) = .next t) ∧
    (∃ t, exec (.decode 0 9) (running .d0 0 0 []) = .next t) ∧
    (∃ t, exec (.decode 4 9) (receiving 4 .normal 3 [1]) = .next t) :=
  ⟨⟨_, rfl⟩, ⟨_, rfl⟩, ⟨_, rfl⟩, ⟨_, rfl⟩, ⟨_, rfl⟩, ⟨_, rfl⟩, ⟨_, rfl⟩, ⟨_, rfl⟩⟩

/-- The invariant as a check, for the concrete states below. -/
theorem inv_of {s : State} (hb : s.busy = decide (s.seq ≠ .idle)) (ho : s.seq.opCode.all (· == s.op) = true)
    (hw : Memory.wf s.par.bufSize.val s.buf = true) (hm : s.mode = .escaped → s.seq = .d1)
    (hc : s.seq = .d1 → s.cnt.toNat < s.len.toNat)
    (hi : s.seq = .e1 ∨ s.seq = .e2 ∨ s.seq = .v3 → s.idx.toNat < s.len.toNat)
    (hs : s.seq = .e2 → s.sub = s.par.escEnd ∨ s.sub = s.par.escEsc)
    (hf : s.seq = .v1 ∨ s.seq = .v2 ∨ s.seq = .v3 ∨ s.seq = .v4 → s.off.toNat + 2 ≤ s.len.toNat)
    (ht : s.seq = .a1 → s.idx.toNat < s.len.toNat + 2)
    (hl : s.seq = .a1 ∨ s.seq = .a2 → s.len.toNat + 2 ≤ s.par.bufSize.val)
    (hr : s.resetHeld = true → s.seq = .idle ∧ s.buf = []) : s.Inv where
  busy_iff := by rw [hb, decide_eq_true_iff]
  op_of_seq c h := by rw [h] at ho; exact (eq_of_beq (by simpa using ho)).symm
  buf_wf := hw
  escaped_only_d1 := hm
  cnt_below_len := hc
  idx_below_len := hi
  sub_substitute := hs
  field_in_len := hf
  idx_below_total := ht
  field_in_buf := hl
  reset_held := hr

theorem inv_reset : State.reset.Inv :=
  inv_of (by decide) (by decide) (by decide) (by decide) (by decide) (by decide) (by decide) (by decide) (by decide)
    (by decide) (by decide)

theorem inv_reset_asserted : ({ State.reset with resetHeld := true, inputs := [.host (.readReg 4)] } : State).Inv :=
  inv_of (by decide) (by decide) (by decide) (by decide) (by decide) (by decide) (by decide) (by decide) (by decide)
    (by decide) (by decide)

theorem inv_d0 : (running .d0 0 0 []).Inv :=
  inv_of (by decide) (by decide) (by decide) (by decide) (by decide) (by decide) (by decide) (by decide) (by decide)
    (by decide) (by decide)

theorem inv_filling : (receiving 255 .escaped 254 [0xDC]).Inv :=
  inv_of (by decide) (by decide) (by decide) (by decide) (by decide) (by decide) (by decide) (by decide) (by decide)
    (by decide) (by decide)

theorem inv_closing : (receiving 2 .normal 1 [0xC0]).Inv :=
  inv_of (by decide) (by decide) (by decide) (by decide) (by decide) (by decide) (by decide) (by decide) (by decide)
    (by decide) (by decide)

theorem inv_append : (running .a0 253 0 [1]).Inv :=
  inv_of (by decide) (by decide) (by decide) (by decide) (by decide) (by decide) (by decide) (by decide) (by decide)
    (by decide) (by decide)

theorem inv_encode : (running .e1 1 0 [1]).Inv :=
  inv_of (by decide) (by decide) (by decide) (by decide) (by decide) (by decide) (by decide) (by decide) (by decide)
    (by decide) (by decide)

theorem witness_DecodeStaysWithinCapacity :
    ((running .d0 0 0 []).Inv ∧ (running .d0 0 0 []).seq = .d0 ∧ ∃ t, exec (.decode 0 0) (running .d0 0 0 []) = .next t) ∧
    ((receiving 255 .escaped 254 [0xDC]).Inv ∧ (receiving 255 .escaped 254 [0xDC]).seq = .d1 ∧
      ∃ t, exec (.decode 255 0) (receiving 255 .escaped 254 [0xDC]) = .next t) :=
  ⟨⟨inv_d0, rfl, _, rfl⟩, inv_filling, rfl, _, rfl⟩

theorem witness_DecodeOutcomes :
    ((running .d0 0 0 []).Inv ∧ ∃ t, exec (.decode 0 0) (running .d0 0 0 []) = .next t ∧ t.busy = false) ∧
    ((receiving 255 .escaped 254 [0xDC]).Inv ∧
      ∃ t, exec (.decode 255 0) (receiving 255 .escaped 254 [0xDC]) = .next t ∧ t.busy = false) ∧
    ((receiving 2 .normal 1 [0xC0]).Inv ∧
      ∃ t, exec (.decode 2 0) (receiving 2 .normal 1 [0xC0]) = .next t ∧ t.busy = false) :=
  ⟨⟨inv_d0, _, rfl, rfl⟩, ⟨inv_filling, _, rfl, rfl⟩, inv_closing, _, rfl, rfl⟩

/-- A frame of two bytes for a capacity of two and of three, after one more `END`. -/
theorem witness_DecodeReadsEncodedFrame :
    ∀ len ∈ [(2 : Byte), 3], let s : State :=
      { running .d0 len 0 [] with
        rxs := [0xC0, 0xC0, 0xDB, 0xDC, 0x41, 0xC0, 0x07], polls := [true, true, false, true, true, true, true] };
      s.par.ok = true ∧ s.seq = .d0 ∧ s.op = 0 ∧ s.inputs = [] ∧ 1 ≤ [(0xC0 : Byte), 0x41].length ∧
      [(0xC0 : Byte), 0x41].length ≤ s.len.toNat ∧ s.len.toNat ≤ s.par.bufSize.val ∧
      s.rxs = List.replicate 1 s.par.endC ++ wireFrame s.par [0xC0, 0x41] ++ [0x07] ∧
      1 + (wireFrame s.par [0xC0, 0x41]).length ≤ s.polls.count true := by decide

/-- T-D10. -/
theorem witness_DecodeTruncatesLongFrame :
    let s := { receiving 1 .normal 0 [0xC0, 0x05, 0xDB, 0xDC, 0xC0] with seq := .d0 }
    s.par.ok = true ∧ s.seq = .d0 ∧ s.op = 0 ∧ s.inputs = [] ∧ 1 ≤ s.len.toNat ∧
    s.len.toNat < [(0x05 : Byte), 0xC0].length ∧ s.len.toNat ≤ s.par.bufSize.val ∧
    s.rxs = wireFrame s.par [0x05, 0xC0] ++ [] ∧
    (wireFrame s.par [0x05, 0xC0]).length ≤ s.polls.count true := by decide

/-- Every clause of ENCODE's steps, the last at the last byte of a full buffer's length. -/
theorem witness_EncodeSteps :
    (running .e0 0 0 []).seq = .e0 ∧
    (let s := running .e1 1 0 [0xC0];
      s.seq = .e1 ∧ s.idx.toNat + 1 ≤ s.par.bufSize.val ∧ s.buf.get s.idx.toNat = some 0xC0) ∧
    (let s : State := { running .e1 255 0 [] with idx := 254, buf := [(254, 0x41)] };
      s.seq = .e1 ∧ s.idx.toNat + 1 ≤ s.par.bufSize.val ∧ s.buf.get s.idx.toNat = some 0x41) ∧
    (running .e2 1 0 []).seq = .e2 ∧ (running .e3 0 0 []).seq = .e3 := by decide

theorem witness_EncodeRunsPayloadRow :
    let s := running .e1 1 0 [0xDB]
    s.seq = .e1 ∧ s.idx.toNat + 1 ≤ s.par.bufSize.val ∧ s.buf.get s.idx.toNat = some 0xDB ∧
    (running .e0 1 0 []).seq = .e0 ∧ (running .e3 1 0 []).seq = .e3 ∧ (running .e2 1 0 []).seq = .e2 := by decide

theorem witness_TransmitRowsSend :
    (running .e0 0 0 []).seq = .e0 ∧ (running .e3 255 0 []).seq = .e3 ∧ (running .e1 1 0 []).seq = .e1 ∧
    (running .e2 1 0 []).seq = .e2 := by decide

theorem witness_TransmitFrame :
    (∃ t, exec .txDelimiter (running .e0 0 0 []) = .next t) ∧
    (∃ t, exec .txEscapeEnd (running .e1 1 0 []) = .next t) ∧
    (∃ t, exec .txEscapeEsc (running .e2 1 0 []) = .next t) ∧
    (∃ t, exec (.txData 1) (running .e1 1 0 []) = .next t) ∧
    ((running .e1 1 0 [1]).seq ≠ .idle ∧ ∃ t, exec (.encode 1 0) (running .e1 1 0 [1]) = .next t) :=
  ⟨⟨_, rfl⟩, ⟨_, rfl⟩, ⟨_, rfl⟩, ⟨_, rfl⟩, by decide, _, rfl⟩

/-- T-E21 and T-E20. -/
theorem witness_EncodeReadFaults :
    (let s := small { running .e1 6 0 [1, 2, 3, 4] with idx := 4 };
      s.seq = .e1 ∧ s.par.bufSize.val ≤ s.idx.toNat) ∧
    (let s : State := { running .e1 3 0 [1, 2] with idx := 2 };
      s.seq = .e1 ∧ s.idx.toNat < s.par.bufSize.val ∧ s.buf.get s.idx.toNat = none) := by decide

theorem holds_of {s : State} {bytes : List Byte}
    (h : ∀ i : Fin bytes.length, s.buf.get (0 + i.val) = some bytes[i.val]) : s.holds 0 bytes := fun i hi => h ⟨i, hi⟩

/-- T-E9, and T-E1 for the empty payload. -/
theorem witness_EncodeSendsFrame :
    (let s := running .e0 4 0 [0xDB, 0xDD, 0xC0, 0xDC];
      s.par.ok = true ∧ s.seq = .e0 ∧ s.op = 1 ∧ s.inputs = [] ∧
      [(0xDB : Byte), 0xDD, 0xC0, 0xDC].length = s.len.toNat ∧ s.len.toNat ≤ s.par.bufSize.val ∧
      s.holds 0 [0xDB, 0xDD, 0xC0, 0xDC]) ∧
    (let s := running .e0 0 0 [];
      s.par.ok = true ∧ s.seq = .e0 ∧ s.op = 1 ∧ s.inputs = [] ∧ ([] : List Byte).length = s.len.toNat ∧
      s.len.toNat ≤ s.par.bufSize.val ∧ s.holds 0 []) :=
  ⟨⟨by decide, rfl, rfl, rfl, rfl, by decide, holds_of (by decide)⟩,
    by decide, rfl, rfl, rfl, rfl, by decide, holds_of (by decide)⟩

theorem witness_FrameHasEndOnlyAtItsEnds : Params.default.ok = true := by decide

/-- Both sides of the precondition: `LEN` 2 with `OFF` 0, and `LEN` 255 with `OFF` 254. -/
theorem witness_VerifyPreconditionExact :
    (let s := running .v0 2 0 [];
      s.seq = .v0 ∧ 1 ≤ s.len.toNat ∧ s.off.toNat + 2 ≤ s.len.toNat) ∧
    (let s := running .v0 255 254 [];
      s.seq = .v0 ∧ ¬ (1 ≤ s.len.toNat ∧ s.off.toNat + 2 ≤ s.len.toNat)) ∧
    254 ≤ (254 : Byte).toNat := by decide

theorem witness_VerifySteps :
    (let s : State := { running .v1 255 253 [] with buf := [(253, 1), (254, 2)] };
      s.seq = .v1 ∧ s.off.toNat + 2 ≤ s.par.bufSize.val ∧ s.buf.get s.off.toNat = some 1 ∧
      s.buf.get (s.off.toNat + 1) = some 2) ∧
    (let s := running .v2 255 253 [];
      s.seq = .v2 ∧ s.off.toNat + 2 ≤ s.par.bufSize.val) ∧
    (let s : State := { running .v3 255 0 [] with idx := 254, buf := [(254, 2)] };
      s.seq = .v3 ∧ s.idx.toNat + 1 ≤ s.par.bufSize.val ∧ s.buf.get s.idx.toNat = some 2) ∧
    (running .v4 2 0 []).seq = .v4 := by decide

theorem witness_VerifyFrame :
    ((running .v2 2 0 [1, 1]).seq ≠ .idle ∧ ∃ t, exec (.verify 2 0) (running .v2 2 0 [1, 1]) = .next t) ∧
    ((running .v3 2 0 [0, 0]).seq ≠ .v2 ∧ ∃ t, exec (.verify 2 0) (running .v3 2 0 [0, 0]) = .next t) :=
  ⟨⟨by decide, _, rfl⟩, by decide, _, rfl⟩

theorem witness_VerifyFaults :
    (let s := running .v1 255 254 [];
      s.seq = .v1 ∧ s.par.bufSize.val < s.off.toNat + 2) ∧
    (let s := running .v2 255 254 [];
      s.seq = .v2 ∧ s.par.bufSize.val < s.off.toNat + 2) ∧
    (let s := running .v1 2 0 [1];
      s.seq = .v1 ∧ s.off.toNat + 2 ≤ s.par.bufSize.val ∧ s.buf.get (s.off.toNat + 1) = none) ∧
    (let s := small { running .v3 6 0 [] with idx := 4 };
      s.seq = .v3 ∧ s.par.bufSize.val ≤ s.idx.toNat) ∧
    (let s : State := { running .v3 3 0 [1, 2] with idx := 2 };
      s.seq = .v3 ∧ s.idx.toNat < s.par.bufSize.val ∧ s.buf.get s.idx.toNat = none) := by decide

/-- T-V18. -/
theorem witness_VerifyWholeOperation :
    let s := running .v0 6 1 [0x11, 0xB7, 0x88, 0x22, 0x33, 0x44]
    s.par.ok = true ∧ s.seq = .v0 ∧ s.op = 2 ∧ s.inputs = [] ∧ s.off.toNat + 2 ≤ s.len.toNat ∧
    s.len.toNat ≤ s.par.bufSize.val ∧ [(0x11 : Byte), 0xB7, 0x88, 0x22, 0x33, 0x44].length = s.len.toNat ∧
    s.holds 0 [0x11, 0xB7, 0x88, 0x22, 0x33, 0x44] ∧
    ([0x11, 0xB7, 0x88, 0x22, 0x33, 0x44] : List Byte)[s.off.toNat]? = some 0xB7 ∧
    ([0x11, 0xB7, 0x88, 0x22, 0x33, 0x44] : List Byte)[s.off.toNat + 1]? = some 0x88 :=
  ⟨by decide, rfl, rfl, rfl, by decide, by decide, by decide, holds_of (by decide), by decide, by decide⟩

/-- T-V11: bit 0 of byte 0 flipped. -/
theorem witness_VerifyDetectsByteChange :
    let s := running .v0 5 3 [0x30, 0x32, 0x33, 0x83, 0x73]
    let data : List Byte := [0x31, 0x32, 0x33, 0x83, 0x73]
    s.par.ok = true ∧ s.par.crcFn = .arc ∧ s.seq = .v0 ∧ s.op = 2 ∧ s.inputs = [] ∧ s.off.toNat + 2 ≤ s.len.toNat ∧
    s.len.toNat ≤ s.par.bufSize.val ∧ data.length = s.len.toNat ∧ data[s.off.toNat]? = some 0x83 ∧
    data[s.off.toNat + 1]? = some 0x73 ∧
    crc16 .arc ((data.set s.off.toNat 0).set (s.off.toNat + 1) 0) = crcOfBytes s.par.order 0x83 0x73 ∧
    0 < data.length ∧ 0 ≠ s.off.toNat ∧ 0 ≠ s.off.toNat + 1 ∧ data[0]? ≠ some 0x30 ∧ s.holds 0 (data.set 0 0x30) :=
  ⟨by decide, rfl, rfl, rfl, rfl, by decide, by decide, by decide, by decide, by decide, by decide +kernel, by decide,
    by decide, by decide, by decide, holds_of (by decide)⟩

/-- The largest `LEN` that does not fault (T-A13), and an index at the last byte. -/
theorem witness_AppendSteps :
    (let s := running .a0 253 0 [];
      s.seq = .a0 ∧ s.len.toNat + 2 ≤ s.par.bufSize.val) ∧
    (let s : State := { running .a1 253 0 [] with idx := 254, buf := [(254, 0)] };
      s.seq = .a1 ∧ s.idx.toNat + 1 ≤ s.par.bufSize.val ∧ s.buf.get s.idx.toNat = some 0) ∧
    (let s := running .a2 253 0 [];
      s.seq = .a2 ∧ s.len.toNat + 2 ≤ s.par.bufSize.val) := by decide

theorem witness_AppendFrame :
    ((running .a0 0 0 []).seq ≠ .idle ∧ ∃ t, exec (.append 0 0) (running .a0 0 0 []) = .next t) ∧
    ((running .a1 0 0 [0, 0]).seq = .a1 ∧ ∃ t, exec (.append 0 0) (running .a1 0 0 [0, 0]) = .next t) :=
  ⟨⟨by decide, _, rfl⟩, rfl, _, rfl⟩

/-- T-A14 and T-A20. -/
theorem witness_AppendFaults :
    (let s := running .a0 254 0 [];
      s.seq = .a0 ∧ s.par.bufSize.val < s.len.toNat + 2) ∧
    (let s := running .a2 255 0 [];
      s.seq = .a2 ∧ s.par.bufSize.val < s.len.toNat + 2) ∧
    (let s := small { running .a1 6 0 [] with idx := 4 };
      s.seq = .a1 ∧ s.par.bufSize.val ≤ s.idx.toNat) ∧
    (let s : State := { running .a1 3 0 [1, 2] with idx := 2 };
      s.seq = .a1 ∧ s.idx.toNat < s.par.bufSize.val ∧ s.buf.get s.idx.toNat = none) := by decide

/-- T-A4, on an instance whose buffer has exactly the five bytes needed. -/
theorem witness_AppendWholeOperation :
    let s : State := { running .a0 3 0 [0x31, 0x32, 0x33] with par := { Params.default with bufSize := 5 } }
    s.par.ok = true ∧ s.seq = .a0 ∧ s.op = 3 ∧ s.inputs = [] ∧ [(0x31 : Byte), 0x32, 0x33].length = s.len.toNat ∧
    s.len.toNat + 2 ≤ s.par.bufSize.val ∧ s.holds 0 [0x31, 0x32, 0x33] :=
  ⟨by decide, rfl, rfl, rfl, by decide, by decide, holds_of (by decide)⟩

theorem witness_AppendThenVerify :
    let s := running .a0 0 0 []
    s.par.ok = true ∧ s.resetHeld = false ∧ s.seq = .a0 ∧ s.op = 3 ∧ s.inputs = [] ∧
    ([] : List Byte).length = s.len.toNat ∧ s.len.toNat + 2 ≤ s.par.bufSize.val ∧ s.holds 0 [] :=
  ⟨by decide, rfl, rfl, rfl, rfl, by decide, by decide, holds_of (by decide)⟩

theorem witness_DefaultCrcSeesOneByteChange : (0x00 : Byte) ≠ 0x80 := by decide

theorem witness_GoStartsOperation :
    (∀ op ∈ [(0 : BitVec 3), 1, 2, 3], let s := idle op 0 0 []; s.busy = false ∧ s.resetHeld = false ∧ s.op = op) ∧
    (let s : State := { idle 3 0 0 [] with resetHeld := true };
      s.busy = false ∧ s.resetHeld = true ∧ s.op.toNat < 4) := by decide

theorem witness_GoRefusedWhenBusyOrReserved :
    (running .d1 1 0 []).busy = true ∧ ((idle 4 0 0 []).busy = false ∧ 4 ≤ (idle 4 0 0 []).op.toNat) ∧
    ((idle 7 0 0 []).busy = false ∧ 4 ≤ (idle 7 0 0 []).op.toNat) := by decide

theorem witness_CommandsIssuedFromIdle :
    (State.reset.seq = .idle ∧ State.reset.busy = false ∧ State.reset.resetHeld = false) ∧
    (let s : State := { State.reset with resetHeld := true };
      s.seq = .idle ∧ s.busy = false ∧ s.resetHeld = true) ∧
    ((running .a2 0 0 []).seq ≠ .idle ∧ (running .a2 0 0 []).seq.opCode ≠ some 0 ∧
      (running .a2 0 0 []).seq.opCode ≠ some 1 ∧ (running .a2 0 0 []).seq.opCode ≠ some 2 ∧
      (running .d0 0 0 []).seq.opCode ≠ some 3) := by decide

theorem witness_HostRegistersWhileIdle :
    (State.reset.busy = false ∧ State.reset.resetHeld = false) ∧
    (let s : State := { State.reset with resetHeld := true };
      s.busy = false ∧ s.resetHeld = true) := by decide

theorem witness_OtherHostRegisterAccesses : State.reset.busy = false := by decide

theorem witness_HostBufferWhileIdle :
    let s : State := { State.reset with buf := [(254, 7)] }
    s.busy = false ∧ s.resetHeld = false ∧ ({ s with resetHeld := true } : State).resetHeld = true ∧
    (254 : Byte).toNat < s.par.bufSize.val ∧ s.buf.get (254 : Byte).toNat = some 7 ∧
    s.buf.get (0 : Byte).toNat = none ∧ s.par.bufSize.val ≤ (255 : Byte).toNat := by decide

theorem witness_HostAccessWhileBusy :
    (running .d1 1 0 []).busy = true ∧ (HostAccess.readReg 5 ≠ .readReg 4) := by decide

theorem witness_ResetInputStopsOperation :
    (let s : State := { receiving 8 .escaped 1 [] with res := 5, buf := cells 0 [0x41], inputs := [.assertReset, .quiet] };
      s.par.ok = true ∧ s.inputs = .assertReset :: [.quiet] ∧ s.resetHeld = false ∧ s.busy = true) ∧
    (let s : State := { State.reset with resetHeld := true, inputs := [.assertReset] };
      s.par.ok = true ∧ s.inputs = .assertReset :: [] ∧ s.resetHeld = true) ∧
    (let s : State := { State.reset with resetHeld := true, inputs := [.releaseReset] };
      s.par.ok = true ∧ s.inputs = .releaseReset :: []) := by decide

/-- R280: a host that reads `STATUS` while reset is asserted. -/
theorem witness_BlockStaysIdleWhileResetAsserted :
    let s : State := { State.reset with resetHeld := true, inputs := [.host (.readReg 4)] }
    s.Inv ∧ s.resetHeld = true ∧ (∃ t, step s = .next t) ∧ s.inputs = .host (.readReg 4) :: [] :=
  ⟨inv_reset_asserted, rfl, ⟨_, rfl⟩, rfl⟩

theorem witness_BufferReadsAfterWrites :
    254 + 1 ≤ State.reset.par.bufSize.val ∧ 253 + 2 ≤ State.reset.par.bufSize.val ∧
    State.reset.par.bufSize.val < 255 + 1 ∧ State.reset.par.bufSize.val < 254 + 2 ∧
    Memory.wf State.reset.par.bufSize.val State.reset.buf = true ∧ State.reset.par.order = .le ∧
    ({ Params.default with order := .be } : Params).order = .be := by decide

theorem witness_StepKeepsInvariant :
    (State.reset.Inv ∧ ∃ t, step State.reset = .next t) ∧
    ((receiving 255 .escaped 254 [0xDC]).Inv ∧ ∃ t, step (receiving 255 .escaped 254 [0xDC]) = .next t) ∧
    ((running .a0 253 0 [1]).Inv ∧ ∃ t, step (running .a0 253 0 [1]) = .next t) :=
  ⟨⟨inv_reset, _, rfl⟩, ⟨inv_filling, _, rfl⟩, inv_append, _, rfl⟩

theorem witness_ParametersNeverChange : ∃ t, step (running .e0 0 0 []) = .next t := ⟨_, rfl⟩

theorem witness_OperandsStableWhileBusy :
    (running .e1 1 0 [1]).busy = true ∧ (∃ t, step (running .e1 1 0 [1]) = .next t) ∧
    ∀ rest, (running .e1 1 0 [1]).inputs ≠ .assertReset :: rest := ⟨rfl, ⟨_, rfl⟩, by simp [running, State.reset]⟩

theorem witness_ResultWrittenOnlyOnCompletion :
    ∃ t, step (running .e3 1 0 []) = .next t ∧ (∀ rest, (running .e3 1 0 []).inputs ≠ .assertReset :: rest) ∧
      t.res ≠ (running .e3 1 0 []).res := ⟨_, rfl, by simp [running, State.reset], by decide⟩

theorem witness_OnlyEncodeSends :
    ∃ t, step (running .e0 0 0 []) = .next t ∧ t.txlog ≠ (running .e0 0 0 []).txlog := ⟨_, rfl, by decide⟩

theorem witness_OnlyDecodeTakesCharacters :
    (∃ t, step (receiving 4 .normal 0 [1]) = .next t ∧ t.rxs ≠ (receiving 4 .normal 0 [1]).rxs) ∧
    (∃ t, step { State.reset with inputs := [.arrive 1] } = .next t ∧ t.rxs ≠ []) :=
  ⟨⟨_, rfl, by decide⟩, _, rfl, by decide⟩

/-- A block's write, a host's write, the reset input. -/
theorem witness_BufferOwnership :
    ((running .a0 253 0 [1]).Inv ∧ ∃ t, step (running .a0 253 0 [1]) = .next t ∧
      t.buf.get 253 ≠ (running .a0 253 0 [1]).buf.get 253) ∧
    (∃ t, step { State.reset with inputs := [.host (.writeBuf 254 1)] } = .next t ∧
      t.buf.get 254 ≠ State.reset.buf.get 254) ∧
    (∃ t, step { idle 0 0 0 [1] with inputs := [.assertReset] } = .next t ∧ t.buf.get 0 ≠ (idle 0 0 0 [1]).buf.get 0) :=
  ⟨⟨inv_append, _, rfl, by decide⟩, ⟨_, rfl, by decide⟩, _, rfl, by decide⟩

theorem witness_RunningBlockStepsWithinBounds :
    ((running .a0 253 0 [1]).Inv ∧ (running .a0 253 0 [1]).seq ≠ .idle ∧ (running .a0 253 0 [1]).op = 3 ∧
      (running .a0 253 0 [1]).len.toNat + 2 ≤ (running .a0 253 0 [1]).par.bufSize.val) ∧
    ((receiving 255 .escaped 254 [0xDC]).Inv ∧ (receiving 255 .escaped 254 [0xDC]).seq ≠ .idle ∧
      (receiving 255 .escaped 254 [0xDC]).op ≠ 3 ∧
      (receiving 255 .escaped 254 [0xDC]).len.toNat ≤ (receiving 255 .escaped 254 [0xDC]).par.bufSize.val) :=
  ⟨⟨inv_append, by decide, by decide, by decide⟩, inv_filling, by decide, by decide, by decide⟩

/-- Two states that differ in every working register, at the first step of an operation. -/
theorem witness_LeftoverRegistersNeverObserved :
    let s := running .v0 2 0 [0, 0]
    s.agree { s with mode := .escaped, cnt := 9, idx := 300, crc := 1, rcrc := 2, sub := 3 } ∧ s.seq.fresh = true :=
  ⟨rfl, by decide⟩

end Sys2Proof.Machine.Test
end

section
/-! ## The state after reset (10_state R40) -/

namespace Sys2Proof.Machine

/-- Most of the invariant's clauses speak of a step of a running operation, so at IDLE with `BUSY` 0 (R27, R33) only
`MODE` and `BUF` are left to check. -/
theorem State.inv_of_idle {s : State} (hbusy : s.busy = false) (hseq : s.seq = .idle) (hmode : s.mode = .normal)
    (hwf : Memory.wf s.par.bufSize.val s.buf = true) (hheld : s.resetHeld = true → s.buf = []) : s.Inv where
  busy_iff := by simp [hbusy, hseq]
  op_of_seq := by simp [hseq, Seq.opCode]
  buf_wf := hwf
  escaped_only_d1 := by simp [hmode]
  cnt_below_len := by simp [hseq]
  idx_below_len := by simp [hseq]
  sub_substitute := by simp [hseq]
  field_in_len := by simp [hseq]
  idx_below_total := by simp [hseq]
  field_in_buf := by simp [hseq]
  reset_held h := ⟨hseq, hheld h⟩

/-- The presumed constants of 00_scope section 3 keep the four inequalities of R6. -/
theorem Params.default_ok : Params.default.ok = true := by decide

/-- After reset the block is idle, in NORMAL, and no byte of `BUF` is written (R40). -/
theorem State.reset_inv : State.reset.Inv :=
  State.inv_of_idle rfl rfl rfl (Memory.wf_nil _) fun _ => rfl

/-- Settles O49: an idle state in NORMAL with an empty `BUF` meets the invariant (`State.inv_of_idle`), and the
parameters after reset are the defaults. -/
theorem resetStateMeetsInvariant : Obligations.ResetStateMeetsInvariant :=
  ⟨State.reset_inv, rfl, rfl, rfl, Params.default_ok⟩

end Sys2Proof.Machine
end

section
/-! ## The moves of a step -/

namespace Sys2Proof.Machine

/-- What a move does to the state. -/
def Move.act (m : Move) (s : State) : Result :=
  match m with
  | .rest => .next s
  | .run i => exec i s
  | .access a => hostAccess a s
  | .arrive c => .next (s.arrive c)
  | .assertReset => .next s.assertReset
  | .releaseReset => .next s.releaseReset

/-- A step makes the next move on the state less the pending input, if the constants keep R6. -/
theorem step_eq_act {s : State} (hp : s.par.ok = true) : step s = s.nextMove.act s.takeInput := by
  unfold step
  rw [if_pos hp]
  cases s.nextMove <;> rfl

theorem step_of_not_ok {s : State} (hp : s.par.ok = false) : step s = .refused .badConstants := by
  simp [step, hp]

/-- Nothing is pending from outside, so that the block moves (log 11). -/
def State.blockTurn (s : State) : Prop := s.inputs = [] ∨ ∃ rest, s.inputs = .quiet :: rest

theorem State.nextMove_of_blockTurn {s : State} (h : s.blockTurn) : s.nextMove = s.blockMove := by
  unfold State.nextMove
  obtain h | ⟨rest, h⟩ := h <;> rw [h]

theorem State.blockMove_of_idle {s : State} (h : s.seq = .idle) : s.blockMove = .rest := if_pos h

theorem State.blockMove_of_running {s : State} (h : s.seq ≠ .idle) : s.blockMove = .run s.command := if_neg h

/-- An idle block rests (R41). -/
theorem step_of_idle {s : State} (hp : s.par.ok = true) (hi : s.blockTurn) (hs : s.seq = .idle) :
    step s = .next s.takeInput := by
  rw [step_eq_act hp, State.nextMove_of_blockTurn hi, State.blockMove_of_idle hs]; rfl

/-- A running block runs the command in its registers. -/
theorem step_of_running {s : State} (hp : s.par.ok = true) (hi : s.blockTurn) (hs : s.seq ≠ .idle) :
    step s = exec s.command s.takeInput := by
  rw [step_eq_act hp, State.nextMove_of_blockTurn hi, State.blockMove_of_running hs]; rfl

/-- A pending input other than `quiet` is the next move. -/
theorem step_of_host {s : State} {a : HostAccess} {rest : List Input} (hp : s.par.ok = true)
    (hi : s.inputs = .host a :: rest) : step s = a.move.act s.takeInput := by
  rw [step_eq_act hp, State.nextMove, hi]

theorem step_of_arrive {s : State} {c : Byte} {rest : List Input} (hp : s.par.ok = true)
    (hi : s.inputs = .arrive c :: rest) : step s = .next (s.takeInput.arrive c) := by
  rw [step_eq_act hp, State.nextMove, hi]; rfl

theorem step_of_assertReset {s : State} {rest : List Input} (hp : s.par.ok = true)
    (hi : s.inputs = .assertReset :: rest) : step s = .next s.takeInput.assertReset := by
  rw [step_eq_act hp, State.nextMove, hi]; rfl

theorem step_of_releaseReset {s : State} {rest : List Input} (hp : s.par.ok = true)
    (hi : s.inputs = .releaseReset :: rest) : step s = .next s.takeInput.releaseReset := by
  rw [step_eq_act hp, State.nextMove, hi]; rfl

/-- A host access other than a write to register 3 is made as it stands. -/
theorem HostAccess.move_of_not_go {a : HostAccess} (h : ∀ v, a ≠ .writeReg 3 v) : a.move = .access a := by
  cases a with
  | writeReg n v => exact if_neg fun hn => h v (by rw [hn])
  | readReg n => rfl
  | writeBuf i v => rfl
  | readBuf i => rfl

/-- The state less the pending input, its list of inputs written out. -/
theorem State.takeInput_of_cons {s : State} {i : Input} {rest : List Input} (h : s.inputs = i :: rest) :
    s.takeInput = { s with inputs := rest } := by
  unfold State.takeInput; rw [h]; rfl

/-- The pending input a move comes from; the block's own moves and `GO` need none named. -/
def Move.cause (m : Move) (inputs : List Input) : Prop :=
  match m with
  | .rest => True
  | .run _ => True
  | .access a => ∃ rest, inputs = .host a :: rest
  | .arrive c => ∃ rest, inputs = .arrive c :: rest
  | .assertReset => ∃ rest, inputs = .assertReset :: rest
  | .releaseReset => ∃ rest, inputs = .releaseReset :: rest

theorem State.nextMove_cause (s : State) : s.nextMove.cause s.inputs := by
  obtain ⟨_, hm⟩ | ⟨v, rest, hi, hm⟩ | ⟨a, rest, hi, _, hm⟩ | ⟨c, rest, hi, hm⟩ | ⟨rest, hi, hm⟩ | ⟨rest, hi, hm⟩ :=
    s.nextMove_cases <;> rw [hm]
  · obtain ⟨_, hb⟩ | ⟨_, hb⟩ := s.blockMove_cases <;> rw [hb] <;> trivial
  · trivial
  · exact ⟨rest, hi⟩
  · exact ⟨rest, hi⟩
  · exact ⟨rest, hi⟩
  · exact ⟨rest, hi⟩

/-- The three bytes of the command word in the registers decode to the command they hold (R87, R88). -/
theorem State.decode_command (s : State) :
    decode s.par .command [s.off, s.len, s.op.setWidth 8] = .ok s.command := by
  have hop := s.op.isLt
  have hw : (s.op.setWidth 8).setWidth 3 = s.op := by
    simp
  have hlt : (s.op.setWidth 8).toNat < 8 := by
    rw [BitVec.toNat_setWidth]; omega
  simp only [decode, if_pos hlt, hw]; rfl

/-- Settles O4: the next move while the sequencer runs is the command in the registers, and a write to register 3 is
`GO`. -/
theorem stepRunsDecodedInstruction : Obligations.StepRunsDecodedInstruction := by
  intro s hp
  refine ⟨fun i hi hs hd => ?_, fun v rest hi => step_of_host hp hi⟩
  obtain rfl : s.command = i := Except.ok.inj (s.decode_command.symm.trans hd)
  exact step_of_running hp hi hs

/-- Settles O6, one clause by the equation of each move. -/
theorem stepMakesOtherMoves : Obligations.StepMakesOtherMoves := by
  intro s
  refine ⟨fun hp hs hi => step_of_idle hp hi hs, fun c rest hp hi => ?_, fun a rest hp hi ha => ?_, step_of_not_ok⟩
  · rw [step_of_arrive hp hi, State.takeInput_of_cons hi]; rfl
  · rw [step_of_host hp hi, HostAccess.move_of_not_go ha, State.takeInput_of_cons hi]; rfl

end Sys2Proof.Machine
end

section
/-! ## What a step of a running command keeps -/

namespace Sys2Proof.Machine

/-- `t` has the parameters, operands, `BUSY`, `RES` and reset level of `s`, and what the host sees and has pending. -/
structure State.Keeps (s t : State) : Prop where
  par : t.par = s.par
  op : t.op = s.op
  len : t.len = s.len
  off : t.off = s.off
  busy : t.busy = s.busy
  res : t.res = s.res
  resetHeld : t.resetHeld = s.resetHeld
  inputs : t.inputs = s.inputs
  hostRead : t.hostRead = s.hostRead

/-- The two ways a step of a running command ends: it goes on, or it completes (R231). -/
def State.goesOnOrCompletes (s t : State) : Prop :=
  s.Keeps t ∨ ∃ u v, s.Keeps u ∧ t = u.complete v

theorem State.goesOnOrCompletes.par {s t : State} (h : s.goesOnOrCompletes t) : t.par = s.par := by
  obtain hk | ⟨u, v, hk, rfl⟩ := h
  · exact hk.par
  · exact hk.par

/-- A change of `RES` shows that the command has completed. -/
theorem State.goesOnOrCompletes.completed {s t : State} (h : s.goesOnOrCompletes t) (hr : t.res ≠ s.res) :
    t.busy = false ∧ t.seq = .idle := by
  obtain hk | ⟨u, v, _, rfl⟩ := h
  · exact absurd hk.res hr
  · exact ⟨rfl, rfl⟩

theorem State.Keeps.completes {s u : State} (h : s.Keeps u) (v : Word) : s.goesOnOrCompletes (u.complete v) :=
  .inr ⟨u, v, h, rfl⟩

theorem State.goesOnOrCompletes_appended {s u : State} {v : Byte} (hk : s.Keeps u) :
    s.goesOnOrCompletes (u.appended v) := by
  obtain ⟨_, ht⟩ | ⟨_, ht⟩ := u.appended_cases v <;> rw [ht]
  · refine State.Keeps.completes ?_ _; exact { hk with }
  · exact .inl { hk with }

theorem State.Keeps.refl (s : State) : s.Keeps s := ⟨rfl, rfl, rfl, rfl, rfl, rfl, rfl, rfl, rfl⟩

theorem State.keeps_spendDraw (s : State) : s.Keeps s.spendDraw := by constructor <;> simp

theorem State.keeps_takeChar_drive (s : State) (c : Byte) : s.Keeps (s.takeChar.drive c) := by constructor <;> simp

theorem State.Keeps.setMode {s u : State} (h : s.Keeps u) (m : Mode) : s.Keeps (u.setMode m) := { h with }

theorem State.keeps_memWrite2 {s t : State} {a : Nat} {v : Word} (h : s.memWrite2 a v = .ok t) : s.Keeps t := by
  obtain ⟨_, rfl⟩ := State.memWrite2_ok.mp h; exact { State.Keeps.refl s with }

theorem decodeD0_next {s t : State} (h : decodeD0 s = .next t) :
    (s.len = 0 ∧ t = ({ s with mode := .normal, cnt := 0 } : State).complete 0) ∨
    (s.len ≠ 0 ∧ t = { s with mode := .normal, cnt := 0, seq := .d1 }) := by
  unfold decodeD0 at h
  split at h <;> cases h
  · exact .inl ⟨‹_›, rfl⟩
  · exact .inr ⟨‹_›, rfl⟩

theorem verifyV0_next {s t : State} (h : verifyV0 s = .next t) :
    (s.off.toNat + 2 ≤ s.len.toNat ∧ t = { s with seq := .v1 }) ∨ t = s.complete 0 := by
  unfold verifyV0 at h
  split at h <;> cases h
  · exact .inl ⟨verifyPrecondition_iff.mp ‹_›, rfl⟩
  · exact .inr rfl

theorem execDecode_goesOnOrCompletes {len off : Byte} {s t : State} (hs : s.seq ≠ .idle)
    (h : execDecode len off s = .next t) : s.goesOnOrCompletes t := by
  obtain ⟨hi, _⟩ | ⟨_, _, h⟩ | ⟨_, _, h⟩ := execDecode_next h
  · exact absurd hi hs
  · obtain ⟨_, rfl⟩ | ⟨_, rfl⟩ := decodeD0_next h
    · refine State.Keeps.completes ?_ _; exact { State.Keeps.refl s with }
    · exact .inl { State.Keeps.refl s with }
  · have hd := s.keeps_takeChar_drive
    obtain ⟨_, rfl⟩ | ⟨_, _, rfl⟩ | ⟨c, _, _, _, hc⟩ := decodeD1_next h
    · exact .inl (.refl _)
    · exact .inl s.keeps_spendDraw
    · obtain ⟨_, _, _, rfl⟩ | ⟨_, _, _, rfl⟩ | ⟨_, _, _, rfl⟩ | ⟨_, _, _, _, rfl⟩ | ⟨_, _, rfl⟩ := hc
      · exact (hd c).completes _
      · exact .inl (hd c)
      · exact .inl ((hd c).setMode _)
      · exact State.goesOnOrCompletes_appended (hd c)
      · exact State.goesOnOrCompletes_appended ((hd c).setMode _)

theorem execEncode_goesOnOrCompletes {len off : Byte} {s t : State} (hs : s.seq ≠ .idle)
    (h : execEncode len off s = .next t) : s.goesOnOrCompletes t := by
  obtain ⟨hi, _⟩ | ⟨_, _, h⟩ | ⟨_, _, h⟩ | ⟨_, _, h⟩ | ⟨_, _, h⟩ := execEncode_next h
  · exact absurd hi hs
  · cases h; exact .inl { State.Keeps.refl s with }
  · obtain ⟨b, _, _, ⟨_, rfl⟩ | ⟨_, _, rfl⟩ | ⟨_, _, rfl⟩⟩ := encodeE1_next h <;>
      exact .inl { State.Keeps.refl s with }
  · cases h; exact .inl { State.Keeps.refl s with }
  · cases h; refine State.Keeps.completes ?_ _; exact { State.Keeps.refl s with }

theorem execVerify_goesOnOrCompletes {len off : Byte} {s t : State} (hs : s.seq ≠ .idle)
    (h : execVerify len off s = .next t) : s.goesOnOrCompletes t := by
  obtain ⟨hi, _⟩ | ⟨_, _, ⟨_, h⟩ | ⟨_, h⟩ | ⟨_, h⟩ | ⟨_, h⟩ | ⟨_, h⟩⟩ := execVerify_next h
  · exact absurd hi hs
  · obtain ⟨_, rfl⟩ | rfl := verifyV0_next h
    · exact .inl { State.Keeps.refl s with }
    · exact (State.Keeps.refl s).completes _
  · obtain ⟨v, _, rfl⟩ := verifyV1_next h
    exact .inl { State.Keeps.refl s with }
  · obtain ⟨u, hu, rfl⟩ := verifyV2_next h
    exact .inl { State.keeps_memWrite2 hu with }
  · obtain ⟨b, _, _, rfl⟩ := verifyV3_next h
    exact .inl { State.Keeps.refl s with }
  · cases h; exact (State.Keeps.refl s).completes _

theorem execAppend_goesOnOrCompletes {len off : Byte} {s t : State} (hs : s.seq ≠ .idle)
    (h : execAppend len off s = .next t) : s.goesOnOrCompletes t := by
  obtain ⟨hi, _⟩ | ⟨_, _, h⟩ | ⟨_, _, h⟩ | ⟨_, _, h⟩ := execAppend_next h
  · exact absurd hi hs
  · obtain ⟨u, hu, rfl⟩ := appendA0_next h
    exact .inl { State.keeps_memWrite2 hu with }
  · obtain ⟨b, _, _, rfl⟩ := appendA1_next h
    exact .inl { State.Keeps.refl s with }
  · obtain ⟨u, hu, rfl⟩ := appendA2_next h
    exact (State.keeps_memWrite2 hu).completes _

/-- A step of a running block keeps what the host owns, and `RES` and `BUSY` unless it completes (R65, R231). -/
theorem exec_command_goesOnOrCompletes {s t u : State} (hs : u.seq ≠ .idle) (h : exec s.command u = .next t) :
    u.goesOnOrCompletes t := by
  obtain ⟨_, he⟩ | ⟨_, he⟩ | ⟨_, he⟩ | ⟨_, he⟩ | ⟨_, he⟩ := exec_command s u <;> rw [he] at h
  · exact execDecode_goesOnOrCompletes hs h
  · exact execEncode_goesOnOrCompletes hs h
  · exact execVerify_goesOnOrCompletes hs h
  · exact execAppend_goesOnOrCompletes hs h
  · exact absurd h execReserved_not_next

theorem execGo_par_res {s t : State} (h : execGo s = .next t) : t.par = s.par ∧ t.res = s.res := by
  obtain ⟨_, q, _, rfl⟩ := execGo_next.mp h
  split <;> exact ⟨rfl, rfl⟩

/-- No access of the host changes a parameter or `RES` (R231). -/
theorem hostAccess_par_res {a : HostAccess} {s t : State} (h : hostAccess a s = .next t) :
    t.par = s.par ∧ t.res = s.res := by
  obtain ⟨v, rfl⟩ | ⟨v, rfl⟩ | ⟨_, ⟨v, n, rfl⟩ | ⟨v, n, rfl⟩ | ⟨v, n, rfl⟩ | ⟨i, v, _, _, rfl⟩ | hg⟩ := hostAccess_next h
  · exact ⟨rfl, rfl⟩
  · exact ⟨rfl, rfl⟩
  · exact ⟨rfl, rfl⟩
  · exact ⟨rfl, rfl⟩
  · exact ⟨rfl, rfl⟩
  · split <;> exact ⟨rfl, rfl⟩
  · exact execGo_par_res hg

/-- Settles O51: each move keeps the parameters, the block's by `exec_command_goesOnOrCompletes`. -/
theorem parametersNeverChange : Obligations.ParametersNeverChange := by
  intro s t h
  obtain ⟨_, ⟨_, _, rfl⟩ | ⟨hs, _, he⟩ | ⟨_, hg⟩ | ⟨a, _, _, ha⟩ | ⟨c, _, rfl⟩ | ⟨_, rfl⟩ | ⟨_, rfl⟩⟩ := step_next h
  · rfl
  · exact (exec_command_goesOnOrCompletes (u := s.takeInput) hs he).par
  · exact (execGo_par_res hg).1
  · exact (hostAccess_par_res ha).1
  · rfl
  · exact s.takeInput.assertReset_par
  · rfl

/-- Settles O53: of the moves other than the assertion of reset only the block's own can change `RES`, when it
completes. -/
theorem resultWrittenOnlyOnCompletion : Obligations.ResultWrittenOnlyOnCompletion := by
  intro s t h hreset hres
  have hcause := s.nextMove_cause
  obtain ⟨_, ⟨_, _, rfl⟩ | ⟨hs, _, he⟩ | ⟨_, hg⟩ | ⟨a, _, _, ha⟩ | ⟨c, _, rfl⟩ | ⟨hm, _⟩ | ⟨_, rfl⟩⟩ := step_next h
  · exact absurd rfl hres
  · exact ⟨hs, (exec_command_goesOnOrCompletes (u := s.takeInput) hs he).completed hres⟩
  · exact absurd (execGo_par_res hg).2 hres
  · exact absurd (hostAccess_par_res ha).2 hres
  · exact absurd rfl hres
  · rw [hm] at hcause
    obtain ⟨rest, hi⟩ := hcause
    exact absurd hi (hreset rest)
  · exact absurd rfl hres

end Sys2Proof.Machine
end

section
/-! ## The invariant, step label by step label -/

namespace Sys2Proof.Machine

/-- What the invariant says of the registers at the step label `SEQ` holds. -/
def State.live (s : State) : Prop :=
  match s.seq with
  | .idle => True
  | .d0 => s.op = 0
  | .d1 => s.op = 0 ∧ s.cnt.toNat < s.len.toNat
  | .e0 => s.op = 1
  | .e1 => s.op = 1 ∧ s.idx.toNat < s.len.toNat
  | .e2 => s.op = 1 ∧ s.idx.toNat < s.len.toNat ∧ (s.sub = s.par.escEnd ∨ s.sub = s.par.escEsc)
  | .e3 => s.op = 1
  | .v0 => s.op = 2
  | .v1 => s.op = 2 ∧ s.off.toNat + 2 ≤ s.len.toNat
  | .v2 => s.op = 2 ∧ s.off.toNat + 2 ≤ s.len.toNat
  | .v3 => s.op = 2 ∧ s.off.toNat + 2 ≤ s.len.toNat ∧ s.idx.toNat < s.len.toNat
  | .v4 => s.op = 2 ∧ s.off.toNat + 2 ≤ s.len.toNat
  | .a0 => s.op = 3
  | .a1 => s.op = 3 ∧ s.len.toNat + 2 ≤ s.par.bufSize.val ∧ s.idx.toNat < s.len.toNat + 2
  | .a2 => s.op = 3 ∧ s.len.toNat + 2 ≤ s.par.bufSize.val

/-- The invariant's clauses about step labels are `State.live`, read at the label `SEQ` holds. -/
theorem State.Inv.live {s : State} (h : s.Inv) : s.live := by
  obtain ⟨-, hop, -, -, hcnt, hidx, hsub, hfield, htotal, hbuf, -⟩ := h
  unfold State.live
  cases hs : s.seq <;> simp_all [Seq.opCode]

theorem State.inv_of_live {s : State} (hbusy : s.busy = true ↔ s.seq ≠ .idle) (hlive : s.live)
    (hwf : Memory.wf s.par.bufSize.val s.buf = true) (hmode : s.mode = .escaped → s.seq = .d1)
    (hheld : s.resetHeld = true → s.seq = .idle ∧ s.buf = []) : s.Inv := by
  unfold State.live at hlive
  refine ⟨hbusy, ?_, hwf, hmode, ?_, ?_, ?_, ?_, ?_, ?_, hheld⟩ <;>
    cases hs : s.seq <;> simp_all [Seq.opCode]

/-- At the first step of an operation only `OP` is constrained (R22). -/
theorem State.live_of_fresh {s : State} (hfresh : s.seq.fresh = true)
    (hop : ∀ c, s.seq.opCode = some c → s.op = c) : s.live := by
  unfold State.live
  cases hs : s.seq <;> simp_all [Seq.fresh, Seq.opCode]

/-- While an operation runs the reset input is not asserted (R280). -/
theorem State.Inv.not_held {s : State} (h : s.Inv) (hs : s.seq ≠ .idle) : s.resetHeld ≠ true :=
  fun hr => hs (h.reset_held hr).1

/-- Outside D1 the mode is NORMAL (R29). -/
theorem State.Inv.mode_normal {s : State} (h : s.Inv) (hs : s.seq ≠ .d1) : s.mode = .normal := by
  cases hm : s.mode
  · rfl
  · exact absurd (h.escaped_only_d1 hm) hs

/-- At IDLE `BUSY` is 0 (R27, R33). -/
theorem State.Inv.not_busy {s : State} (h : s.Inv) (hs : s.seq = .idle) : s.busy = false := by
  cases hb : s.busy
  · rfl
  · exact absurd hs (h.busy_iff.mp hb)

/-- A host access or a `GO` that `BUSY` lets through finds the block at IDLE. -/
theorem State.Inv.idle_of_not_busy {s : State} (h : s.Inv) (hb : s.busy = false) : s.seq = .idle := by
  by_contra hs
  exact Bool.false_ne_true (hb.symm.trans (h.busy_iff.mpr hs))

/-! ### A step of a running operation -/

section
variable {s t u : State} (h : s.Inv) (hs : s.seq ≠ .idle)
include h hs

/-- A step that goes on keeps the invariant if the registers fit the label it goes to. -/
theorem State.Inv.goesOn (hk : s.Keeps t) (hq : t.seq ≠ .idle) (hlive : t.live)
    (hwf : Memory.wf t.par.bufSize.val t.buf = true) (hmode : t.mode = .escaped → t.seq = .d1) : t.Inv :=
  State.inv_of_live ⟨fun _ => hq, fun _ => hk.busy.trans (h.busy_iff.mpr hs)⟩ hlive hwf hmode
    fun hr => absurd (hk.resetHeld.symm.trans hr) (h.not_held hs)

/-- A step that completes keeps it if it leaves NORMAL (R231). -/
theorem State.Inv.completes (hk : s.Keeps u) (hmode : u.mode = .normal)
    (hwf : Memory.wf u.par.bufSize.val u.buf = true) (v : Word) : (u.complete v).Inv :=
  State.inv_of_idle rfl rfl hmode hwf fun hr => absurd (hk.resetHeld.symm.trans hr) (h.not_held hs)

/-- A step of an operation other than DECODE leaves `MODE` alone, so that it goes on in NORMAL. -/
theorem State.Inv.goesOn_normal (hd : s.seq ≠ .d1) (hk : s.Keeps t) (hq : t.seq ≠ .idle) (hlive : t.live)
    (hwf : Memory.wf t.par.bufSize.val t.buf = true) (hmode : t.mode = s.mode) : t.Inv :=
  h.goesOn hs hk hq hlive hwf fun hesc => by simp [hmode, h.mode_normal hd] at hesc

end

section
variable {s t : State} (h : s.Inv)
include h

/-! ### DECODE -/

theorem decodeD0_inv (hs : s.seq = .d0) (he : decodeD0 s = .next t) : t.Inv := by
  have hrun : s.seq ≠ .idle := by simp [hs]
  have hop : s.live := h.live
  simp only [State.live, hs] at hop
  obtain ⟨_, rfl⟩ | ⟨hlen, rfl⟩ := decodeD0_next he
  · exact h.completes hrun (u := { s with mode := .normal, cnt := 0 }) { State.Keeps.refl s with } rfl h.buf_wf 0
  · exact h.goesOn hrun { State.Keeps.refl s with } (by simp) ⟨hop, show 0 < s.len.toNat by bv_omega⟩ h.buf_wf
      (by simp)

/-- A step that stays at D1 keeps the invariant if `CNT` stays below `LEN`. -/
theorem State.Inv.goesOn_d1 (hs : s.seq = .d1) (hk : s.Keeps t) (hq : t.seq = .d1)
    (hcnt : t.cnt.toNat < s.len.toNat) (hwf : Memory.wf s.par.bufSize.val t.buf = true) : t.Inv := by
  have hlive := h.live
  simp only [State.live, hs] at hlive
  refine h.goesOn (by simp [hs]) hk (by simp [hq]) ?_ (by rwa [hk.par]) fun _ => hq
  simp only [State.live, hq]
  exact ⟨hk.op.trans hlive.1, by rwa [hk.len]⟩

/-- `append(v)` of a character received at D1 keeps the invariant: `CNT` reaches `LEN` only by completing (R132). -/
theorem State.Inv.appended {u : State} (hs : s.seq = .d1) (hk : s.Keeps u) (hq : u.seq = .d1) (hcnt : u.cnt = s.cnt)
    (hbuf : u.buf = s.buf) (hmode : u.mode = .normal) (hb : u.cnt.toNat + 1 ≤ u.par.bufSize.val) (v : Byte) :
    (u.appended v).Inv := by
  have hlt := h.cnt_below_len hs
  have hwf : Memory.wf s.par.bufSize.val (u.buf.set u.cnt.toNat v) = true := by
    rw [hbuf, ← hk.par]
    exact Memory.wf_set v (by rw [hk.par]; exact h.buf_wf) hb
  obtain ⟨_, ht⟩ | ⟨hne, ht⟩ := u.appended_cases v <;> rw [ht]
  · exact h.completes (by simp [hs]) (u := { u with buf := u.buf.set u.cnt.toNat v, cnt := u.cnt + 1 }) { hk with }
      hmode (by rw [← hk.par] at hwf; exact hwf) _
  · refine h.goesOn_d1 hs { hk with } hq ?_ hwf
    rw [hk.len, hcnt] at hne
    simp only [hcnt]
    bv_omega

theorem decodeD1_inv (hs : s.seq = .d1) (he : decodeD1 s = .next t) : t.Inv := by
  have hlt := h.cnt_below_len hs
  have hk := s.keeps_takeChar_drive
  obtain ⟨_, rfl⟩ | ⟨_, _, rfl⟩ | ⟨c, _, _, _, hc⟩ := decodeD1_next he
  · exact h
  · exact h.goesOn_d1 hs s.keeps_spendDraw (by simp [hs]) (by simpa using hlt) (by simpa using h.buf_wf)
  · obtain ⟨hm, _, _, rfl⟩ | ⟨_, _, _, rfl⟩ | ⟨_, _, _, rfl⟩ | ⟨hm, _, _, hb, rfl⟩ | ⟨_, hb, rfl⟩ := hc
    · exact h.completes (by simp [hs]) (hk c) (by simpa using hm) (by simpa using h.buf_wf) _
    · exact h.goesOn_d1 hs (hk c) (by simp [hs]) (by simpa using hlt) (by simpa using h.buf_wf)
    · exact h.goesOn_d1 hs ((hk c).setMode _) (by simp [hs]) (by simpa using hlt) (by simpa using h.buf_wf)
    · exact h.appended hs (hk c) (by simp [hs]) (by simp) (by simp) (by simpa using hm) (by simpa using hb) c
    · exact h.appended hs ((hk c).setMode _) (by simp [hs]) (by simp) (by simp) rfl (by simpa using hb) _

theorem execDecode_inv {len off : Byte} (hs : s.seq ≠ .idle) (he : execDecode len off s = .next t) : t.Inv := by
  obtain ⟨hi, _⟩ | ⟨hq, _, he⟩ | ⟨hq, _, he⟩ := execDecode_next he
  · exact absurd hi hs
  · exact decodeD0_inv h hq he
  · exact decodeD1_inv h hq he

/-! ### ENCODE -/

/-- After a payload byte `IDX` is below `LEN` at E1, or equal to it at E3 (R160). -/
theorem State.Inv.advance (hrun : s.seq ≠ .idle) (hd : s.seq ≠ .d1) (hop : s.op = 1)
    (hlt : s.idx.toNat < s.len.toNat) (c : Byte) : ((s.txSend c).advance .e1).Inv := by
  refine h.goesOn_normal hrun hd { State.Keeps.refl s with } ?_ ?_ h.buf_wf rfl
  · rw [State.advance_seq]; split <;> simp
  · by_cases hend : (s.idx + 1).toNat = s.len.toNat
    · have hq : ((s.txSend c).advance .e1).seq = .e3 := if_pos hend
      simp only [State.live, hq]; exact hop
    · have hq : ((s.txSend c).advance .e1).seq = .e1 := if_neg hend
      simp only [State.live, hq]
      exact ⟨hop, show (s.idx + 1).toNat < s.len.toNat by bv_omega⟩

theorem encodeE0_inv (hs : s.seq = .e0) (he : encodeE0 s = .next t) : t.Inv := by
  have hop : s.live := h.live
  simp only [State.live, hs] at hop
  cases he
  refine h.goesOn_normal (by simp [hs]) (by simp [hs]) { State.Keeps.refl s with } ?_ ?_ h.buf_wf rfl
  · simp only; split <;> simp
  · by_cases hlen : s.len = 0
    · simp only [State.live, if_pos hlen]; exact hop
    · simp only [State.live, if_neg hlen]
      exact ⟨hop, show 0 < s.len.toNat by bv_omega⟩

/-- The first half of an escape pair holds one of the two substitutes. -/
theorem State.Inv.sendEscape (hs : s.seq = .e1) {c : Byte} (hc : c = s.par.escEnd ∨ c = s.par.escEsc) :
    (s.sendEscape c).Inv := by
  have hlive := h.live
  simp only [State.live, hs] at hlive
  exact h.goesOn_normal (by simp [hs]) (by simp [hs]) { State.Keeps.refl s with } (by simp)
    ⟨hlive.1, hlive.2, hc⟩ h.buf_wf rfl

theorem encodeE1_inv (hs : s.seq = .e1) (he : encodeE1 s = .next t) : t.Inv := by
  have hlive := h.live
  simp only [State.live, hs] at hlive
  obtain ⟨b, _, _, ⟨_, rfl⟩ | ⟨_, _, rfl⟩ | ⟨_, _, rfl⟩⟩ := encodeE1_next he
  · exact h.sendEscape hs (.inl rfl)
  · exact h.sendEscape hs (.inr rfl)
  · rw [hs]; exact h.advance (by simp [hs]) (by simp [hs]) hlive.1 hlive.2 b

theorem encodeE2_inv (hs : s.seq = .e2) (he : encodeE2 s = .next t) : t.Inv := by
  have hlive := h.live
  simp only [State.live, hs] at hlive
  obtain ⟨hop, hlt, _⟩ := hlive
  cases he
  exact h.advance (by simp [hs]) (by simp [hs]) hop hlt s.sub

theorem encodeE3_inv (hs : s.seq = .e3) (he : encodeE3 s = .next t) : t.Inv := by
  cases he
  exact h.completes (by simp [hs]) (u := s.txSend s.par.endC) { State.Keeps.refl s with }
    (h.mode_normal (by simp [hs])) h.buf_wf _

theorem execEncode_inv {len off : Byte} (hs : s.seq ≠ .idle) (he : execEncode len off s = .next t) : t.Inv := by
  obtain ⟨hi, _⟩ | ⟨hq, _, he⟩ | ⟨hq, _, he⟩ | ⟨hq, _, he⟩ | ⟨hq, _, he⟩ := execEncode_next he
  · exact absurd hi hs
  · exact encodeE0_inv h hq he
  · exact encodeE1_inv h hq he
  · exact encodeE2_inv h hq he
  · exact encodeE3_inv h hq he

/-! ### VERIFY -/

theorem verifyV0_inv (hs : s.seq = .v0) (he : verifyV0 s = .next t) : t.Inv := by
  have hop : s.live := h.live
  simp only [State.live, hs] at hop
  obtain ⟨hpre, rfl⟩ | rfl := verifyV0_next he
  · exact h.goesOn_normal (by simp [hs]) (by simp [hs]) { State.Keeps.refl s with } (by simp) ⟨hop, hpre⟩ h.buf_wf rfl
  · exact h.completes (by simp [hs]) (.refl s) (h.mode_normal (by simp [hs])) h.buf_wf 0

theorem verifyV1_inv (hs : s.seq = .v1) (he : verifyV1 s = .next t) : t.Inv := by
  have hlive := h.live
  simp only [State.live, hs] at hlive
  obtain ⟨v, _, rfl⟩ := verifyV1_next he
  exact h.goesOn_normal (by simp [hs]) (by simp [hs]) { State.Keeps.refl s with } (by simp) hlive h.buf_wf rfl

theorem verifyV2_inv (hs : s.seq = .v2) (he : verifyV2 s = .next t) : t.Inv := by
  have hlive := h.live
  simp only [State.live, hs] at hlive
  obtain ⟨u, hu, rfl⟩ := verifyV2_next he
  have hwf := State.memWrite2_wf hu h.buf_wf
  obtain ⟨_, rfl⟩ := State.memWrite2_ok.mp hu
  exact h.goesOn_normal (by simp [hs]) (by simp [hs]) { State.Keeps.refl s with } (by simp)
    ⟨hlive.1, hlive.2, show 0 < s.len.toNat by omega⟩ hwf rfl

theorem verifyV3_inv (hs : s.seq = .v3) (he : verifyV3 s = .next t) : t.Inv := by
  have hlive := h.live
  simp only [State.live, hs] at hlive
  obtain ⟨hop, hfield, hlt⟩ := hlive
  obtain ⟨b, _, _, rfl⟩ := verifyV3_next he
  refine h.goesOn_normal (by simp [hs]) (by simp [hs]) { State.Keeps.refl s with } ?_ ?_ h.buf_wf rfl
  · simp only; split <;> simp
  · by_cases hend : (s.idx + 1).toNat = s.len.toNat
    · simpa only [State.live, if_pos hend] using ⟨hop, hfield⟩
    · simp only [State.live, if_neg hend]
      exact ⟨hop, hfield, show (s.idx + 1).toNat < s.len.toNat by bv_omega⟩

theorem verifyV4_inv (hs : s.seq = .v4) (he : verifyV4 s = .next t) : t.Inv := by
  cases he
  exact h.completes (by simp [hs]) (.refl s) (h.mode_normal (by simp [hs])) h.buf_wf _

theorem execVerify_inv {len off : Byte} (hs : s.seq ≠ .idle) (he : execVerify len off s = .next t) : t.Inv := by
  obtain ⟨hi, _⟩ | ⟨_, _, ⟨hq, he⟩ | ⟨hq, he⟩ | ⟨hq, he⟩ | ⟨hq, he⟩ | ⟨hq, he⟩⟩ := execVerify_next he
  · exact absurd hi hs
  · exact verifyV0_inv h hq he
  · exact verifyV1_inv h hq he
  · exact verifyV2_inv h hq he
  · exact verifyV3_inv h hq he
  · exact verifyV4_inv h hq he

/-! ### APPEND -/

theorem appendA0_inv (hs : s.seq = .a0) (he : appendA0 s = .next t) : t.Inv := by
  have hop : s.live := h.live
  simp only [State.live, hs] at hop
  obtain ⟨u, hu, rfl⟩ := appendA0_next he
  have hwf := State.memWrite2_wf hu h.buf_wf
  obtain ⟨hb, rfl⟩ := State.memWrite2_ok.mp hu
  exact h.goesOn_normal (by simp [hs]) (by simp [hs]) { State.Keeps.refl s with } (by simp)
    ⟨hop, hb, show 0 < s.len.toNat + 2 by omega⟩ hwf rfl

theorem appendA1_inv (hs : s.seq = .a1) (he : appendA1 s = .next t) : t.Inv := by
  have hlive := h.live
  simp only [State.live, hs] at hlive
  obtain ⟨hop, hfield, hlt⟩ := hlive
  obtain ⟨b, _, _, rfl⟩ := appendA1_next he
  refine h.goesOn_normal (by simp [hs]) (by simp [hs]) { State.Keeps.refl s with } ?_ ?_ h.buf_wf rfl
  · simp only; split <;> simp
  · by_cases hend : (s.idx + 1).toNat = s.len.toNat + 2
    · simpa only [State.live, if_pos hend] using ⟨hop, hfield⟩
    · simp only [State.live, if_neg hend]
      exact ⟨hop, hfield, show (s.idx + 1).toNat < s.len.toNat + 2 by bv_omega⟩

theorem appendA2_inv (hs : s.seq = .a2) (he : appendA2 s = .next t) : t.Inv := by
  obtain ⟨u, hu, rfl⟩ := appendA2_next he
  have hwf := State.memWrite2_wf hu h.buf_wf
  obtain ⟨_, rfl⟩ := State.memWrite2_ok.mp hu
  exact h.completes (by simp [hs]) (State.keeps_memWrite2 hu) (h.mode_normal (by simp [hs])) hwf _

theorem execAppend_inv {len off : Byte} (hs : s.seq ≠ .idle) (he : execAppend len off s = .next t) : t.Inv := by
  obtain ⟨hi, _⟩ | ⟨hq, _, he⟩ | ⟨hq, _, he⟩ | ⟨hq, _, he⟩ := execAppend_next he
  · exact absurd hi hs
  · exact appendA0_inv h hq he
  · exact appendA1_inv h hq he
  · exact appendA2_inv h hq he

/-- A step of a running block keeps the invariant. -/
theorem exec_command_inv {r : State} (hs : s.seq ≠ .idle) (he : exec r.command s = .next t) : t.Inv := by
  obtain ⟨_, hx⟩ | ⟨_, hx⟩ | ⟨_, hx⟩ | ⟨_, hx⟩ | ⟨_, hx⟩ := exec_command r s <;> rw [hx] at he
  · exact execDecode_inv h hs he
  · exact execEncode_inv h hs he
  · exact execVerify_inv h hs he
  · exact execAppend_inv h hs he
  · exact absurd he execReserved_not_next

/-! ### The moves from outside -/

theorem State.Inv.takeInput : s.takeInput.Inv := { h with }

theorem State.Inv.arrive (c : Byte) : (s.arrive c).Inv := { h with }

theorem State.Inv.observe (v : Word) : (s.observe v).Inv := { h with }

theorem State.Inv.releaseReset : s.releaseReset.Inv := { h with reset_held := fun hr => absurd hr (by simp) }

theorem State.Inv.assertReset : s.assertReset.Inv := by
  by_cases hr : s.resetHeld = true
  · rw [State.assertReset_of_held hr]; exact h
  · obtain ⟨hbusy, hseq, hmode, hbuf, _⟩ := State.assertReset_of_not_held (Bool.eq_false_iff.mpr hr)
    exact State.inv_of_idle hbusy hseq hmode (by rw [hbuf]; rfl) fun _ => hbuf

/-- `GO` leaves the block at the first step of the operation `OP` selects, where no register but `OP` matters (R22). -/
theorem execGo_inv (he : execGo s = .next t) : t.Inv := by
  obtain ⟨hb, q, hq, rfl⟩ := execGo_next.mp he
  obtain ⟨hcode, hfresh, hrun⟩ := Seq.first_some hq
  by_cases hr : s.resetHeld = true
  · rw [if_pos hr]; exact h
  · rw [if_neg hr]
    have hmode := h.mode_normal (by simp [h.idle_of_not_busy hb])
    have hlive : (s.start q).live := State.live_of_fresh hfresh fun c hc => Option.some.inj (hcode.symm.trans hc)
    exact State.inv_of_live ⟨fun _ => hrun, fun _ => rfl⟩ hlive h.buf_wf (fun hesc => by simp [hmode] at hesc)
      fun hheld => absurd hheld hr

theorem hostAccess_inv {a : HostAccess} (he : hostAccess a s = .next t) : t.Inv := by
  obtain ⟨v, rfl⟩ | ⟨v, rfl⟩ | ⟨hb, hw⟩ := hostAccess_next he
  · exact h.observe v
  · exact { h with }
  · have hidle := h.idle_of_not_busy hb
    have hmode := h.mode_normal (by simp [hidle])
    have hheld := fun hr => (h.reset_held hr).2
    obtain ⟨v, n, rfl⟩ | ⟨v, n, rfl⟩ | ⟨v, n, rfl⟩ | ⟨i, v, _, hi, rfl⟩ | hg := hw
    · exact State.inv_of_idle hb hidle hmode h.buf_wf hheld
    · exact State.inv_of_idle hb hidle hmode h.buf_wf hheld
    · exact State.inv_of_idle hb hidle hmode h.buf_wf hheld
    · by_cases hr : s.resetHeld = true
      · rw [if_pos hr]; exact h
      · rw [if_neg hr]
        exact State.inv_of_idle hb hidle hmode (Memory.wf_set v h.buf_wf hi) fun hh => absurd hh hr
    · exact execGo_inv h hg

end

/-- Settles O50: each move of a step keeps the invariant, the block's own label by label. -/
theorem stepKeepsInvariant : Obligations.StepKeepsInvariant := by
  intro s t h he
  have hin := h.takeInput
  obtain ⟨_, ⟨_, _, rfl⟩ | ⟨hs, _, he⟩ | ⟨_, hg⟩ | ⟨a, _, _, ha⟩ | ⟨c, _, rfl⟩ | ⟨_, rfl⟩ | ⟨_, rfl⟩⟩ := step_next he
  · exact hin
  · exact exec_command_inv hin hs he
  · exact execGo_inv hin hg
  · exact hostAccess_inv hin ha
  · exact hin.arrive c
  · exact hin.assertReset
  · exact hin.releaseReset

end Sys2Proof.Machine
end

section
/-! ## The working registers left over by an operation are not observed (R22)

Two states that agree but for the working registers and the detector's lines, and have the same contents in the working
registers that are read before they are written at the label `SEQ` holds, go on alike. -/

namespace Sys2Proof.Machine

/-- The working registers an operation at the label `q` goes on to read before it writes them are the same. -/
def Seq.agreeLive (q : Seq) (s t : State) : Prop :=
  match q with
  | .d1 => t.mode = s.mode ∧ t.cnt = s.cnt
  | .e1 => t.idx = s.idx
  | .e2 => t.idx = s.idx ∧ t.sub = s.sub
  | .v2 => t.rcrc = s.rcrc
  | .v3 => t.idx = s.idx ∧ t.crc = s.crc ∧ t.rcrc = s.rcrc
  | .v4 => t.crc = s.crc ∧ t.rcrc = s.rcrc
  | .a1 => t.idx = s.idx ∧ t.crc = s.crc
  | .a2 => t.crc = s.crc
  | _ => True

/-- The relation that every step keeps. -/
def State.alike (s t : State) : Prop := s.agree t ∧ s.seq.agreeLive s t

/-- Two results stop alike, or go on in states that are alike. -/
def alikeResults (r q : Result) : Prop :=
  match r, q with
  | .next s, .next t => s.alike t
  | .fault f, .fault g => f = g
  | .refused f, .refused g => f = g
  | _, _ => False

theorem alikeResults_cases {r q : Result} (h : alikeResults r q) :
    (∃ s t, r = .next s ∧ q = .next t ∧ s.alike t) ∨ (∃ f, r = .fault f ∧ q = .fault f) ∨
    (∃ f, r = .refused f ∧ q = .refused f) := by
  unfold alikeResults at h
  split at h
  · exact .inl ⟨_, _, rfl, rfl, h⟩
  · exact .inr (.inl ⟨_, rfl, by rw [h]⟩)
  · exact .inr (.inr ⟨_, rfl, by rw [h]⟩)
  · exact h.elim

theorem agreeResults_of_alike {r q : Result} (h : alikeResults r q) : agreeResults r q := by
  obtain ⟨s, t, rfl, rfl, h⟩ | ⟨f, rfl, rfl⟩ | ⟨f, rfl, rfl⟩ := alikeResults_cases h
  · exact h.1
  · rfl
  · rfl

/-- At IDLE and at the first step of an operation no working register is read. -/
theorem Seq.agreeLive_of_fresh {q : Seq} (h : q.fresh = true) (s t : State) : q.agreeLive s t := by
  unfold Seq.agreeLive
  cases q <;> simp [Seq.fresh] at h ⊢

/-- What being alike says at a known label. -/
theorem State.alike.of_seq {s t : State} {q : Seq} (h : s.alike t) (hs : s.seq = q) : s.agree t ∧ q.agreeLive s t := by
  subst hs; exact h

theorem State.agree_iff {s t : State} :
    s.agree t ↔ ∃ mode cnt idx crc rcrc sub det,
      t = { s with mode := mode, cnt := cnt, idx := idx, crc := crc, rcrc := rcrc, sub := sub, det := det } :=
  ⟨fun h => ⟨_, _, _, _, _, _, _, h⟩, fun ⟨_, _, _, _, _, _, _, h⟩ => by subst h; rfl⟩

theorem State.agree.seq {s t : State} (h : s.agree t) : t.seq = s.seq := by rw [h]

/-! ### Results that are alike -/

theorem alikeResults_refused (f : Refusal) : alikeResults (.refused f) (.refused f) := rfl

theorem alikeResults_orFault {α : Type} (r : Except Fault α) {k k' : α → Result}
    (h : ∀ v, alikeResults (k v) (k' v)) : alikeResults (orFault r k) (orFault r k') := by
  cases r with
  | ok v => exact h v
  | error f => rfl

theorem alikeResults_ite {p : Prop} [Decidable p] {a a' b b' : Result} (ha : p → alikeResults a a')
    (hb : ¬ p → alikeResults b b') : alikeResults (if p then a else b) (if p then a' else b') := by
  by_cases h : p
  · rw [if_pos h, if_pos h]; exact ha h
  · rw [if_neg h, if_neg h]; exact hb h

theorem alikeResults_inProgress (mine : Bool) {r q : Result} (h : alikeResults r q) :
    alikeResults (inProgress mine r) (inProgress mine q) := by
  cases mine
  · rfl
  · exact h

/-- A completed operation leaves no register that is read. -/
theorem State.alike_complete {s t : State} (h : s.agree t) (v : Word) : (s.complete v).alike (t.complete v) := by
  obtain ⟨m, c, i, crc, rcrc, x, d, rfl⟩ := State.agree_iff.mp h
  exact ⟨rfl, trivial⟩

/-! ### DECODE -/

theorem decodeD0_alike {s t : State} (h : s.agree t) : alikeResults (decodeD0 s) (decodeD0 t) := by
  obtain ⟨m, c, i, crc, rcrc, x, d, rfl⟩ := State.agree_iff.mp h
  exact alikeResults_ite (fun _ => ⟨rfl, trivial⟩) fun _ => ⟨rfl, rfl, rfl⟩

theorem State.agree_spendDraw {s t : State} (h : s.agree t) : s.spendDraw.agree t.spendDraw := by
  obtain ⟨m, c, i, crc, rcrc, x, d, rfl⟩ := State.agree_iff.mp h
  unfold State.spendDraw
  cases s.polls <;> rfl

theorem State.agree_takeChar {s t : State} (h : s.agree t) : s.takeChar.agree t.takeChar := by
  have hrx : t.rxs = s.rxs := by rw [h]
  unfold State.takeChar
  rw [hrx]
  obtain ⟨m, c, i, crc, rcrc, x, d, hd⟩ := State.agree_iff.mp (State.agree_spendDraw h)
  rw [hd]; rfl

theorem State.agree_drive {s t : State} (h : s.agree t) (c : Byte) : (s.drive c).agree (t.drive c) := by
  obtain ⟨m, k, i, crc, rcrc, x, d, rfl⟩ := State.agree_iff.mp h
  rfl

theorem State.agree_setMode {s t : State} (h : s.agree t) (m : Mode) : (s.setMode m).agree (t.setMode m) := by
  obtain ⟨m, k, i, crc, rcrc, x, d, rfl⟩ := State.agree_iff.mp h
  rfl

/-- States at D1 with the same `MODE` and `CNT` are alike. -/
theorem State.alike_d1 {s t : State} (hs : s.seq = .d1) (h : s.agree t) (hm : t.mode = s.mode) (hc : t.cnt = s.cnt) :
    s.alike t :=
  ⟨h, by rw [hs]; exact ⟨hm, hc⟩⟩

theorem State.appended_alike {s t : State} (hs : s.seq = .d1) (h : s.agree t) (hm : t.mode = s.mode)
    (hc : t.cnt = s.cnt) (v : Byte) : (s.appended v).alike (t.appended v) := by
  obtain ⟨m, k, i, crc, rcrc, x, d, rfl⟩ := State.agree_iff.mp h
  obtain rfl : k = s.cnt := hc
  unfold State.appended
  by_cases hlen : s.cnt + 1 = s.len
  · simp only [if_pos hlen]; exact ⟨rfl, trivial⟩
  · simp only [if_neg hlen]; exact State.alike_d1 hs rfl hm rfl

theorem appendByte_alike {s t : State} (hs : s.seq = .d1) (h : s.agree t) (hm : t.mode = s.mode) (hc : t.cnt = s.cnt)
    (v : Byte) : alikeResults (s.appendByte v) (t.appendByte v) := by
  have hpar : t.par = s.par := by rw [h]
  rw [State.appendByte_eq, State.appendByte_eq, hpar, hc]
  exact alikeResults_ite (fun _ => State.appended_alike hs h hm hc v) fun _ => rfl

/-- What D1 does with a character it has taken and shown the detector. -/
def State.receive (s : State) (c : Byte) : Result :=
  match s.mode with
  | .normal =>
    if s.det.frameEnd then .next (s.complete (zext16 s.cnt))
    else if s.det.noise then .next s
    else if s.det.isEsc then .next (s.setMode .escaped)
    else s.appendByte c
  | .escaped => (s.setMode .normal).appendByte s.det.xl

theorem State.rxPoll_of_nil {s : State} (h : s.rxs = []) : s.rxPoll = (none, s) := by
  simp only [State.rxPoll, h]

theorem State.rxPoll_of_withheld {s : State} {c : Byte} {rest : List Byte} (h : s.rxs = c :: rest)
    (ha : s.rxAvailable = false) : s.rxPoll = (none, s.spendDraw) := by
  simp [State.rxPoll, h, ha]

theorem State.rxPoll_of_delivered {s : State} {c : Byte} {rest : List Byte} (h : s.rxs = c :: rest)
    (ha : s.rxAvailable = true) : s.rxPoll = (some c, s.takeChar) := by
  simp [State.rxPoll, h, ha]

theorem decodeD1_of_none {s u : State} (h : s.rxPoll = (none, u)) : decodeD1 s = .next u := by
  unfold decodeD1; rw [h]

theorem decodeD1_of_some {s u : State} {c : Byte} (h : s.rxPoll = (some c, u)) : decodeD1 s = (u.drive c).receive c := by
  unfold decodeD1; rw [h]; rfl

theorem State.receive_alike {s t : State} (hs : s.seq = .d1) (h : s.agree t) (hm : t.mode = s.mode)
    (hc : t.cnt = s.cnt) (hd : t.det = s.det) (c : Byte) : alikeResults (s.receive c) (t.receive c) := by
  unfold State.receive
  rw [hm, hd, hc]
  cases s.mode with
  | normal =>
    refine alikeResults_ite (fun _ => State.alike_complete h _) fun _ => ?_
    refine alikeResults_ite (fun _ => State.alike_d1 hs h hm hc) fun _ => ?_
    exact alikeResults_ite (fun _ => State.alike_d1 hs (State.agree_setMode h _) rfl hc) fun _ =>
      appendByte_alike hs h hm hc c
  | escaped => exact appendByte_alike (s := s.setMode .normal) hs (State.agree_setMode h .normal) rfl hc _

theorem decodeD1_alike {s t : State} (hs : s.seq = .d1) (h : s.alike t) : alikeResults (decodeD1 s) (decodeD1 t) := by
  obtain ⟨ha, hl⟩ := h.of_seq hs
  obtain ⟨hm, hc⟩ := hl
  have hrx : t.rxs = s.rxs := by rw [ha]
  have hav : t.rxAvailable = s.rxAvailable := by rw [ha]; rfl
  have hpar : t.par = s.par := by rw [ha]
  cases hq : s.rxs with
  | nil =>
    rw [decodeD1_of_none (State.rxPoll_of_nil hq), decodeD1_of_none (State.rxPoll_of_nil (hrx.trans hq))]
    exact State.alike_d1 hs ha hm hc
  | cons c rest =>
    cases hb : s.rxAvailable with
    | false =>
      rw [decodeD1_of_none (State.rxPoll_of_withheld hq hb),
        decodeD1_of_none (State.rxPoll_of_withheld (hrx.trans hq) (hav.trans hb))]
      exact State.alike_d1 (by simpa using hs) (State.agree_spendDraw ha) (by simpa using hm) (by simpa using hc)
    | true =>
      rw [decodeD1_of_some (State.rxPoll_of_delivered hq hb),
        decodeD1_of_some (State.rxPoll_of_delivered (hrx.trans hq) (hav.trans hb))]
      exact State.receive_alike (by simpa using hs) (State.agree_drive (State.agree_takeChar ha) c) (by simpa using hm)
        (by simpa using hc) (by simp [hm, hc, hpar]) c

theorem execDecode_alike {s t : State} (hs : s.seq ≠ .idle) (h : s.alike t) (len off : Byte) :
    alikeResults (execDecode len off s) (execDecode len off t) := by
  have hlen : t.hasLen len = s.hasLen len := by rw [h.1]; rfl
  unfold execDecode
  rw [h.1.seq, hlen]
  cases hq : s.seq
  case idle => exact absurd hq hs
  case d0 => exact alikeResults_inProgress _ (decodeD0_alike h.1)
  case d1 => exact alikeResults_inProgress _ (decodeD1_alike hq h)
  all_goals exact alikeResults_refused _

/-! ### ENCODE -/

theorem encodeE0_alike {s t : State} (h : s.agree t) : alikeResults (encodeE0 s) (encodeE0 t) := by
  obtain ⟨m, k, i, crc, rcrc, x, d, rfl⟩ := State.agree_iff.mp h
  refine ⟨rfl, ?_⟩
  change Seq.agreeLive (if s.len = 0 then .e3 else .e1) _ _
  split
  · trivial
  · rfl

theorem State.agree_txSend {s t : State} (h : s.agree t) (c : Byte) : (s.txSend c).agree (t.txSend c) := by
  obtain ⟨m, k, i, crc, rcrc, x, d, rfl⟩ := State.agree_iff.mp h
  rfl

/-- After a payload byte E1 or E3 follows, which read `IDX` only. -/
theorem State.advance_alike {s t : State} {q : Seq} (hq : q = .e1) (h : s.agree t) (hi : t.idx = s.idx) :
    (s.advance q).alike (t.advance q) := by
  obtain ⟨m, k, i, crc, rcrc, x, d, rfl⟩ := State.agree_iff.mp h
  obtain rfl : i = s.idx := hi
  subst hq
  refine ⟨rfl, ?_⟩
  rw [State.advance_seq]
  split
  · trivial
  · rfl

theorem encodeE1_alike {s t : State} (hs : s.seq = .e1) (h : s.alike t) : alikeResults (encodeE1 s) (encodeE1 t) := by
  obtain ⟨ha, hl⟩ := h.of_seq hs
  obtain ⟨m, k, i, crc, rcrc, x, d, rfl⟩ := State.agree_iff.mp ha
  obtain rfl : i = s.idx := hl
  refine alikeResults_orFault (s.memRead1 s.idx.toNat) fun b => ?_
  refine alikeResults_ite (fun _ => ⟨rfl, rfl, rfl⟩) fun _ => ?_
  refine alikeResults_ite (fun _ => ⟨rfl, rfl, rfl⟩) fun _ => ?_
  exact State.advance_alike hs (State.agree_txSend ha b) rfl

theorem encodeE2_alike {s t : State} (hs : s.seq = .e2) (h : s.alike t) : alikeResults (encodeE2 s) (encodeE2 t) := by
  obtain ⟨ha, hl⟩ := h.of_seq hs
  obtain ⟨m, k, i, crc, rcrc, x, d, rfl⟩ := State.agree_iff.mp ha
  obtain ⟨rfl, rfl⟩ : i = s.idx ∧ x = s.sub := hl
  exact State.advance_alike rfl (State.agree_txSend ha s.sub) rfl

theorem encodeE3_alike {s t : State} (h : s.agree t) : alikeResults (encodeE3 s) (encodeE3 t) := by
  obtain ⟨m, k, i, crc, rcrc, x, d, rfl⟩ := State.agree_iff.mp h
  exact ⟨rfl, trivial⟩

theorem execEncode_alike {s t : State} (hs : s.seq ≠ .idle) (h : s.alike t) (len off : Byte) :
    alikeResults (execEncode len off s) (execEncode len off t) := by
  have hlen : t.hasLen len = s.hasLen len := by rw [h.1]; rfl
  unfold execEncode
  rw [h.1.seq, hlen]
  cases hq : s.seq
  case idle => exact absurd hq hs
  case e0 => exact alikeResults_inProgress _ (encodeE0_alike h.1)
  case e1 => exact alikeResults_inProgress _ (encodeE1_alike hq h)
  case e2 => exact alikeResults_inProgress _ (encodeE2_alike hq h)
  case e3 => exact alikeResults_inProgress _ (encodeE3_alike h.1)
  all_goals exact alikeResults_refused _

/-! ### VERIFY -/

theorem orFault_memWrite2 (s : State) (a : Nat) (v : Word) (k : State → Result) :
    orFault (s.memWrite2 a v) k =
      if a + 2 ≤ s.par.bufSize.val then
        k { s with buf := (s.buf.set a (crcBytes s.par.order v).1).set (a + 1) (crcBytes s.par.order v).2 }
      else .fault .bufBounds := by
  unfold State.memWrite2
  split <;> rfl

theorem verifyV0_alike {s t : State} (h : s.agree t) : alikeResults (verifyV0 s) (verifyV0 t) := by
  obtain ⟨m, k, i, crc, rcrc, x, d, rfl⟩ := State.agree_iff.mp h
  exact alikeResults_ite (fun _ => ⟨rfl, trivial⟩) fun _ => ⟨rfl, trivial⟩

theorem verifyV1_alike {s t : State} (h : s.agree t) : alikeResults (verifyV1 s) (verifyV1 t) := by
  obtain ⟨m, k, i, crc, rcrc, x, d, rfl⟩ := State.agree_iff.mp h
  exact alikeResults_orFault (s.memRead2 s.off.toNat) fun v => ⟨rfl, rfl⟩

theorem verifyV2_alike {s t : State} (hs : s.seq = .v2) (h : s.alike t) : alikeResults (verifyV2 s) (verifyV2 t) := by
  obtain ⟨ha, hl⟩ := h.of_seq hs
  obtain ⟨m, k, i, crc, rcrc, x, d, rfl⟩ := State.agree_iff.mp ha
  obtain rfl : rcrc = s.rcrc := hl
  unfold verifyV2
  rw [orFault_memWrite2, orFault_memWrite2]
  exact alikeResults_ite (fun _ => ⟨rfl, rfl, rfl, rfl⟩) fun _ => rfl

theorem verifyV3_alike {s t : State} (hs : s.seq = .v3) (h : s.alike t) : alikeResults (verifyV3 s) (verifyV3 t) := by
  obtain ⟨ha, hl⟩ := h.of_seq hs
  obtain ⟨m, k, i, crc, rcrc, x, d, rfl⟩ := State.agree_iff.mp ha
  obtain ⟨rfl, rfl, rfl⟩ : i = s.idx ∧ crc = s.crc ∧ rcrc = s.rcrc := hl
  refine alikeResults_orFault (s.memRead1 s.idx.toNat) fun b => ⟨rfl, ?_⟩
  change Seq.agreeLive (if (s.idx + 1).toNat = s.len.toNat then .v4 else .v3) _ _
  split
  · exact ⟨rfl, rfl⟩
  · exact ⟨rfl, rfl, rfl⟩

theorem verifyV4_alike {s t : State} (hs : s.seq = .v4) (h : s.alike t) : alikeResults (verifyV4 s) (verifyV4 t) := by
  obtain ⟨ha, hl⟩ := h.of_seq hs
  obtain ⟨m, k, i, crc, rcrc, x, d, rfl⟩ := State.agree_iff.mp ha
  obtain ⟨rfl, rfl⟩ : crc = s.crc ∧ rcrc = s.rcrc := hl
  exact ⟨rfl, trivial⟩

theorem execVerify_alike {s t : State} (hs : s.seq ≠ .idle) (h : s.alike t) (len off : Byte) :
    alikeResults (execVerify len off s) (execVerify len off t) := by
  have hops : t.hasLenOff len off = s.hasLenOff len off := by rw [h.1]; rfl
  unfold execVerify
  rw [h.1.seq, hops]
  cases hq : s.seq
  case idle => exact absurd hq hs
  case v0 => exact alikeResults_inProgress _ (verifyV0_alike h.1)
  case v1 => exact alikeResults_inProgress _ (verifyV1_alike h.1)
  case v2 => exact alikeResults_inProgress _ (verifyV2_alike hq h)
  case v3 => exact alikeResults_inProgress _ (verifyV3_alike hq h)
  case v4 => exact alikeResults_inProgress _ (verifyV4_alike hq h)
  all_goals exact alikeResults_refused _

/-! ### APPEND -/

theorem appendA0_alike {s t : State} (h : s.agree t) : alikeResults (appendA0 s) (appendA0 t) := by
  obtain ⟨m, k, i, crc, rcrc, x, d, rfl⟩ := State.agree_iff.mp h
  unfold appendA0
  rw [orFault_memWrite2, orFault_memWrite2]
  exact alikeResults_ite (fun _ => ⟨rfl, rfl, rfl⟩) fun _ => rfl

theorem appendA1_alike {s t : State} (hs : s.seq = .a1) (h : s.alike t) : alikeResults (appendA1 s) (appendA1 t) := by
  obtain ⟨ha, hl⟩ := h.of_seq hs
  obtain ⟨m, k, i, crc, rcrc, x, d, rfl⟩ := State.agree_iff.mp ha
  obtain ⟨rfl, rfl⟩ : i = s.idx ∧ crc = s.crc := hl
  refine alikeResults_orFault (s.memRead1 s.idx.toNat) fun b => ⟨rfl, ?_⟩
  change Seq.agreeLive (if (s.idx + 1).toNat = s.len.toNat + 2 then .a2 else .a1) _ _
  split
  · rfl
  · exact ⟨rfl, rfl⟩

theorem appendA2_alike {s t : State} (hs : s.seq = .a2) (h : s.alike t) : alikeResults (appendA2 s) (appendA2 t) := by
  obtain ⟨ha, hl⟩ := h.of_seq hs
  obtain ⟨m, k, i, crc, rcrc, x, d, rfl⟩ := State.agree_iff.mp ha
  obtain rfl : crc = s.crc := hl
  unfold appendA2
  rw [orFault_memWrite2, orFault_memWrite2]
  exact alikeResults_ite (fun _ => ⟨rfl, trivial⟩) fun _ => rfl

theorem execAppend_alike {s t : State} (hs : s.seq ≠ .idle) (h : s.alike t) (len off : Byte) :
    alikeResults (execAppend len off s) (execAppend len off t) := by
  have hlen : t.hasLen len = s.hasLen len := by rw [h.1]; rfl
  unfold execAppend
  rw [h.1.seq, hlen]
  cases hq : s.seq
  case idle => exact absurd hq hs
  case a0 => exact alikeResults_inProgress _ (appendA0_alike h.1)
  case a1 => exact alikeResults_inProgress _ (appendA1_alike hq h)
  case a2 => exact alikeResults_inProgress _ (appendA2_alike hq h)
  all_goals exact alikeResults_refused _

/-! ### The moves -/

theorem execReserved_alike {s t : State} (h : s.agree t) (op : BitVec 3) (len off : Byte) :
    alikeResults (execReserved op len off s) (execReserved op len off t) := by
  have hbusy : t.busy = s.busy := by rw [h]
  unfold execReserved
  rw [hbusy]
  exact alikeResults_ite (fun _ => rfl) fun _ => rfl

theorem exec_command_alike {s t : State} (hs : s.seq ≠ .idle) (h : s.alike t) (r : State) :
    alikeResults (exec r.command s) (exec r.command t) := by
  unfold State.command decodeCommand
  split
  · exact execDecode_alike hs h r.len r.off
  · exact execEncode_alike hs h r.len r.off
  · exact execVerify_alike hs h r.len r.off
  · exact execAppend_alike hs h r.len r.off
  · exact execReserved_alike h.1 r.op r.len r.off

theorem execGo_alike {s t : State} (h : s.alike t) : alikeResults (execGo s) (execGo t) := by
  obtain ⟨ha, hl⟩ := h
  obtain ⟨m, k, i, crc, rcrc, x, d, rfl⟩ := State.agree_iff.mp ha
  refine alikeResults_ite (fun _ => rfl) fun _ => ?_
  cases hq : Seq.first s.op with
  | none => exact execReserved_alike ha s.op s.len s.off
  | some q =>
    by_cases hr : s.resetHeld = true
    · simp only [if_pos hr]; exact ⟨rfl, hl⟩
    · simp only [if_neg hr]
      exact ⟨rfl, Seq.agreeLive_of_fresh (Seq.first_some hq).2.1 _ _⟩

theorem hostAccess_alike {s t : State} (h : s.alike t) (a : HostAccess) :
    alikeResults (hostAccess a s) (hostAccess a t) := by
  have hgo := execGo_alike h
  obtain ⟨ha, hl⟩ := h
  obtain ⟨m, k, i, crc, rcrc, x, d, rfl⟩ := State.agree_iff.mp ha
  refine alikeResults_ite (fun _ => alikeResults_ite (fun _ => ⟨rfl, hl⟩) fun _ => rfl) fun _ => ?_
  cases a with
  | readReg n =>
    dsimp only
    cases hostReg n with
    | none => rfl
    | some r => cases r <;> exact ⟨rfl, hl⟩
  | writeReg n v =>
    dsimp only
    cases hostReg n with
    | none => rfl
    | some r =>
      cases r
      case go => exact hgo
      case status => rfl
      case res => rfl
      all_goals
        by_cases hr : s.resetHeld = true
        · simp only [hostWriteIdle, if_pos hr]; exact ⟨rfl, hl⟩
        · simp only [hostWriteIdle, if_neg hr]; exact ⟨rfl, hl⟩
  | readBuf j =>
    refine alikeResults_ite (fun _ => ?_) fun _ => rfl
    dsimp only
    cases s.buf.get j.toNat with
    | none => rfl
    | some v => exact ⟨rfl, hl⟩
  | writeBuf j v =>
    refine alikeResults_ite (fun _ => ?_) fun _ => rfl
    by_cases hr : s.resetHeld = true
    · simp only [if_pos hr]; exact ⟨rfl, hl⟩
    · simp only [if_neg hr]; exact ⟨rfl, hl⟩

theorem State.assertReset_alike {s t : State} (h : s.alike t) : s.assertReset.alike t.assertReset := by
  have hheld : t.resetHeld = s.resetHeld := by rw [h.1]
  by_cases hr : s.resetHeld = true
  · rwa [State.assertReset_of_held hr, State.assertReset_of_held (hheld.trans hr)]
  · obtain ⟨m, k, i, crc, rcrc, x, d, rfl⟩ := State.agree_iff.mp h.1
    simp only [State.assertReset, if_neg hr]
    exact ⟨rfl, trivial⟩

theorem State.takeInput_alike {s t : State} (h : s.alike t) : s.takeInput.alike t.takeInput := by
  obtain ⟨ha, hl⟩ := h
  obtain ⟨m, k, i, crc, rcrc, x, d, rfl⟩ := State.agree_iff.mp ha
  exact ⟨rfl, hl⟩

/-- A move acts alike on states that are alike: the block's own, which needs a step label, and those from outside. -/
theorem Move.act_alike {s t : State} (h : s.alike t) (m : Move)
    (hm : ∀ i, m = .run i → i = .go ∨ s.seq ≠ .idle ∧ ∃ r : State, i = r.command) :
    alikeResults (m.act s) (m.act t) := by
  cases m with
  | rest => exact h
  | run i =>
    obtain rfl | ⟨hs, r, rfl⟩ := hm i rfl
    · exact execGo_alike h
    · exact exec_command_alike hs h r
  | access a => exact hostAccess_alike h a
  | arrive c =>
    obtain ⟨ha, hl⟩ := h
    obtain ⟨m, k, i, crc, rcrc, x, d, rfl⟩ := State.agree_iff.mp ha
    exact ⟨rfl, hl⟩
  | assertReset => exact State.assertReset_alike h
  | releaseReset =>
    obtain ⟨ha, hl⟩ := h
    obtain ⟨m, k, i, crc, rcrc, x, d, rfl⟩ := State.agree_iff.mp ha
    exact ⟨rfl, hl⟩

/-- The instruction a step runs is `GO`, or the command in the registers of a running block. -/
theorem State.nextMove_run {s : State} {i : Instr} (h : s.nextMove = .run i) :
    i = .go ∨ s.seq ≠ .idle ∧ ∃ r : State, i = r.command := by
  obtain ⟨_, hm⟩ | ⟨v, rest, _, hm⟩ | ⟨a, rest, _, _, hm⟩ | ⟨c, rest, _, hm⟩ | ⟨rest, _, hm⟩ | ⟨rest, _, hm⟩ :=
    s.nextMove_cases <;> rw [hm] at h
  · obtain ⟨_, hb⟩ | ⟨hs, hb⟩ := s.blockMove_cases <;> rw [hb] at h <;> cases h
    exact .inr ⟨hs, s, rfl⟩
  · cases h; exact .inl rfl
  all_goals cases h

theorem step_alike {s t : State} (h : s.alike t) : alikeResults (step s) (step t) := by
  have hpar : t.par = s.par := by rw [h.1]
  have hmove : t.nextMove = s.nextMove := by rw [h.1]; rfl
  cases hp : s.par.ok with
  | false => rw [step_of_not_ok hp, step_of_not_ok (by rw [hpar, hp])]; exact alikeResults_refused _
  | true =>
    rw [step_eq_act hp, step_eq_act (by rw [hpar, hp]), hmove]
    exact Move.act_alike (State.takeInput_alike h) _ fun i hi => State.nextMove_run (s := s) hi

theorem run_alike {s t : State} (k : Nat) (h : s.alike t) : alikeResults (run k s) (run k t) := by
  induction k generalizing s t with
  | zero => exact h
  | succ k ih =>
    have hstep := step_alike h
    rw [run_succ, run_succ]
    obtain ⟨u, v, hu, hv, huv⟩ | ⟨f, hf, hg⟩ | ⟨f, hf, hg⟩ := alikeResults_cases hstep
    · rw [hu, hv]; exact ih huv
    · rw [hf, hg]; rfl
    · rw [hf, hg]; rfl

/-- Settles O58: `State.alike` holds of the two states, every step keeps it, and it gives the agreement asked for. -/
theorem leftoverRegistersNeverObserved : Obligations.LeftoverRegistersNeverObserved :=
  fun s t k h hfresh => agreeResults_of_alike (run_alike k ⟨h, Seq.agreeLive_of_fresh hfresh s t⟩)

end Sys2Proof.Machine
end

section
/-! ## The host port, and the reset input (46_host_interface, 70_reset_and_hazards) -/

namespace Sys2Proof.Machine

/-- A read of a register that exists is answered while idle (R232). -/
theorem hostAccess_readReg_idle {s : State} {n : BitVec 3} {r : HostReg} (hb : s.busy = false)
    (hr : hostReg n = some r) : hostAccess (.readReg n) s = .next (hostReadIdle s r) := by
  simp [hostAccess, hb, hr]

theorem hostAccess_writeReg_idle {s : State} {n : BitVec 3} {r : HostReg} (v : Word) (hb : s.busy = false)
    (hr : hostReg n = some r) : hostAccess (.writeReg n v) s = hostWriteIdle s r v := by
  simp [hostAccess, hb, hr]

/-- Register numbers 6 and 7 select no register (log 17). -/
theorem hostAccess_no_register {s : State} {n : BitVec 3} (v : Word) (hb : s.busy = false) (hr : hostReg n = none) :
    hostAccess (.writeReg n v) s = .refused .noSuchRegister ∧
      hostAccess (.readReg n) s = .refused .noSuchRegister := by
  simp [hostAccess, hb, hr]

theorem hostAccess_readStatus_busy {s : State} (hb : s.busy = true) :
    hostAccess (.readReg 4) s = .next (s.observe 1) := by
  simp [hostAccess, State.status, hb]

theorem hostAccess_refused_busy {s : State} {a : HostAccess} (hb : s.busy = true) (ha : a ≠ .readReg 4) :
    hostAccess a s = .refused .hostWhileBusy :=
  (if_pos hb).trans (if_neg ha)

theorem hostAccess_readStatus_idle {s : State} (hb : s.busy = false) :
    hostAccess (.readReg 4) s = .next (s.observe 0) := by
  rw [hostAccess_readReg_idle hb rfl, hostReadIdle, State.status, hb]; rfl

/-- A write to `OP`, `LEN` or `OFF` keeps the low bits that fit, with the reset input released (R232). -/
theorem hostWriteIdle_released {s : State} (v : Word) (h : s.resetHeld = false) :
    hostWriteIdle s .op v = .next { s with op := v.extractLsb' 0 3 } ∧
    hostWriteIdle s .len v = .next { s with len := v.extractLsb' 0 8 } ∧
    hostWriteIdle s .off v = .next { s with off := v.extractLsb' 0 8 } := by
  simp only [hostWriteIdle, h, Bool.false_eq_true, if_false, BitVec.setWidth_eq_extractLsb', Nat.reduceLeDiff, and_self]

/-- While reset is asserted it leaves a free value (log 26). -/
theorem hostWriteIdle_held {s : State} (v : Word) (h : s.resetHeld = true) :
    hostWriteIdle s .op v = .next s.unsettleOp ∧ hostWriteIdle s .len v = .next s.unsettleLen ∧
    hostWriteIdle s .off v = .next s.unsettleOff := by
  simp [hostWriteIdle, h]

/-- Settles O44, one register at a time. -/
theorem hostRegistersWhileIdle : Obligations.HostRegistersWhileIdle := by
  intro s v hb
  have hw {n : BitVec 3} {r : HostReg} (hr : hostReg n = some r) := hostAccess_writeReg_idle v hb hr
  have hread {n : BitVec 3} {r : HostReg} (hr : hostReg n = some r) := hostAccess_readReg_idle hb hr
  rw [hw (n := 0) rfl, hw (n := 1) rfl, hw (n := 2) rfl, hread (n := 0) rfl, hread (n := 1) rfl, hread (n := 2) rfl,
    hread (n := 3) rfl, hread (n := 5) rfl, hostAccess_readStatus_idle hb, BitVec.ofNat_toNat, BitVec.ofNat_toNat,
    BitVec.ofNat_toNat]
  refine ⟨hostWriteIdle_released v, fun hr => ?_, rfl, rfl, rfl, rfl, rfl, ⟨_, _, rfl⟩⟩
  obtain ⟨hop, hlen, hoff⟩ := hostWriteIdle_held v hr
  exact ⟨⟨_, _, hop⟩, ⟨_, _, hlen⟩, ⟨_, _, hoff⟩⟩

/-- Settles O46: `BUSY` lets a read of `STATUS` through and nothing else. -/
theorem hostAccessWhileBusy : Obligations.HostAccessWhileBusy := by
  intro s a hb
  refine ⟨fun ha => ?_, hostAccess_refused_busy hb⟩
  rw [ha]
  exact hostAccess_readStatus_busy hb

/-- Settles O59, by the register each number selects. -/
theorem otherHostRegisterAccesses : Obligations.OtherHostRegisterAccesses := by
  intro s v hb
  refine ⟨hostAccess_writeReg_idle v hb (r := .go) rfl, fun n hn => ?_, fun n hn => ?_⟩
  · obtain rfl | rfl := hn
    · exact hostAccess_writeReg_idle v hb (r := .status) rfl
    · exact hostAccess_writeReg_idle v hb (r := .res) rfl
  · exact hostAccess_no_register v hb (by obtain rfl | rfl := hn <;> rfl)

/-- Settles O47: what `State.assertReset` does when reset is asserted already and when it is not. -/
theorem resetInputStopsOperation : Obligations.ResetInputStopsOperation := by
  intro s rest hp
  refine ⟨fun hi hr => ?_, fun hi hr => ?_, fun hi => ?_⟩
  · obtain ⟨hbusy, hseq, hmode, hbuf, hres⟩ := State.assertReset_of_not_held (s := s.takeInput) hr
    exact ⟨_, step_of_assertReset hp hi, by simp, hbusy, hseq, hmode, by simp, by simp, by simp, by simp [hi], hres,
      fun a => by rw [hbuf]; rfl⟩
  · rw [step_of_assertReset hp hi, State.assertReset_of_held (s := s.takeInput) hr, State.takeInput_of_cons hi]
  · rw [step_of_releaseReset hp hi, State.takeInput_of_cons hi]; rfl

/-- `t` is idle, in NORMAL and without a valued byte of `BUF` like `s`, and has sent and taken nothing since. -/
structure State.StaysIdle (s t : State) : Prop where
  busy : t.busy = s.busy
  seq : t.seq = s.seq
  mode : t.mode = s.mode
  buf : t.buf = s.buf
  txlog : t.txlog = s.txlog
  rxs : t.rxs = s.rxs
  resetHeld : t.resetHeld = s.resetHeld

theorem State.StaysIdle.refl (s : State) : s.StaysIdle s := ⟨rfl, rfl, rfl, rfl, rfl, rfl, rfl⟩

/-- While reset is asserted a `GO` starts nothing (R280). -/
theorem execGo_of_held {s t : State} (hr : s.resetHeld = true) (h : execGo s = .next t) : t = s := by
  obtain ⟨_, q, _, ht⟩ := execGo_next.mp h
  rw [ht, if_pos hr]

/-- While reset is asserted a host access reaches `OP`, `LEN`, `OFF` and what the host sees, and nothing else
(log 26). -/
theorem hostAccess_of_held {a : HostAccess} {s t : State} (hr : s.resetHeld = true) (h : hostAccess a s = .next t) :
    s.StaysIdle t := by
  obtain ⟨v, rfl⟩ | ⟨v, rfl⟩ | ⟨_, ⟨v, n, rfl⟩ | ⟨v, n, rfl⟩ | ⟨v, n, rfl⟩ | ⟨i, v, _, _, rfl⟩ | hg⟩ := hostAccess_next h
  · exact { State.StaysIdle.refl s with }
  · exact { State.StaysIdle.refl s with }
  · exact { State.StaysIdle.refl s with }
  · exact { State.StaysIdle.refl s with }
  · exact { State.StaysIdle.refl s with }
  · rw [if_pos hr]; exact .refl s
  · rw [execGo_of_held hr hg]; exact .refl s

/-- Everything a step can do while reset is asserted: nothing the block would show, an arrival, or the release. -/
theorem step_of_held {s t : State} (hr : s.resetHeld = true) (hs : s.seq = .idle) (h : step s = .next t) :
    s.StaysIdle t ∨ (∃ c rest, s.inputs = .arrive c :: rest ∧ t = s.takeInput.arrive c) ∨
    (∃ rest, s.inputs = .releaseReset :: rest ∧ t = s.takeInput.releaseReset) := by
  have hcause := s.nextMove_cause
  obtain ⟨_, ⟨_, _, rfl⟩ | ⟨hrun, _⟩ | ⟨_, hg⟩ | ⟨a, _, _, ha⟩ | ⟨c, hm, ht⟩ | ⟨_, rfl⟩ | ⟨hm, ht⟩⟩ := step_next h
  · exact .inl { State.StaysIdle.refl s with }
  · exact absurd hs hrun
  · rw [execGo_of_held (s := s.takeInput) hr hg]
    exact .inl { State.StaysIdle.refl s with }
  · exact .inl { hostAccess_of_held (s := s.takeInput) hr ha with }
  · rw [hm] at hcause
    obtain ⟨rest, hi⟩ := hcause
    exact .inr (.inl ⟨c, rest, hi, ht⟩)
  · rw [State.assertReset_of_held (s := s.takeInput) hr]
    exact .inl { State.StaysIdle.refl s with }
  · rw [hm] at hcause
    obtain ⟨rest, hi⟩ := hcause
    exact .inr (.inr ⟨rest, hi, ht⟩)

/-- A pending `STATUS` read of an idle block shows the host 0 (R27). -/
theorem step_readStatus_idle {s t : State} {rest : List Input} (hb : s.busy = false)
    (hi : s.inputs = .host (.readReg 4) :: rest) (h : step s = .next t) : t.hostRead = some 0 := by
  obtain ⟨hp, _⟩ := step_next h
  have hread : step s = .next (s.takeInput.observe 0) :=
    (step_of_host hp hi).trans (hostAccess_readStatus_idle (s := s.takeInput) hb)
  rw [hread] at h
  cases h; rfl

/-- Settles O60: by the invariant the block is idle with nothing valued in `BUF`, and `step_of_held` says what is left
to happen. -/
theorem blockStaysIdleWhileResetAsserted : Obligations.BlockStaysIdleWhileResetAsserted := by
  intro s t hinv hr h
  obtain ⟨hs, hbuf⟩ := hinv.reset_held hr
  have hbusy := hinv.not_busy hs
  have hmode := hinv.mode_normal (by simp [hs])
  have hget : ∀ a, s.buf.get a = none := fun a => by rw [hbuf]; rfl
  have hread := fun rest hi => step_readStatus_idle (rest := rest) hbusy hi h
  obtain hk | ⟨c, rest, hi, rfl⟩ | ⟨rest, hi, rfl⟩ := step_of_held hr hs h
  · exact ⟨hk.busy.trans hbusy, hk.seq.trans hs, hk.mode.trans hmode, fun a => by rw [hk.buf, hget], hk.txlog,
      .inl hk.rxs, .inl (hk.resetHeld.trans hr), hread⟩
  · exact ⟨hbusy, hs, hmode, hget, rfl, .inr ⟨c, rest, hi, rfl⟩, .inl hr, hread⟩
  · exact ⟨hbusy, hs, hmode, hget, rfl, .inl rfl, .inr ⟨rest, hi⟩, hread⟩

end Sys2Proof.Machine
end

section
/-! ## A word placed in its stream runs next (log 18) -/

namespace Sys2Proof.Machine

/-- A character delivered to D1 is handled as the row it is in the decoder's mode (R82, R130). -/
theorem decodeD1_eq_exec_received {s : State} {c : Byte} {rest : List Byte} (hr : s.rxs = c :: rest)
    (ha : s.rxAvailable = true) : decodeD1 s = exec (decodeReceived s.par s.mode c) s := by
  rw [decodeD1_of_some (State.rxPoll_of_delivered hr ha)]
  cases hm : s.mode with
  | normal =>
    by_cases he : c = s.par.endC
    · by_cases h0 : s.cnt = 0#8
      · simp [State.receive, hm, detect, frameEnd, noise, isEnd, decodeReceived, exec, execRxEnd, he, h0]
      · have hpos : 0 < s.cnt.toNat := by bv_omega
        simp [State.receive, hm, detect, frameEnd, isEnd, decodeReceived, exec, execRxEnd, he, h0, hpos]
    · by_cases hs : c = s.par.escC
      · subst hs
        simp [State.receive, hm, detect, frameEnd, noise, isEnd, isEsc, decodeReceived, exec, execRxEsc, he]
      · simp [State.receive, hm, detect, frameEnd, noise, isEnd, isEsc, decodeReceived, exec, execRxData, he, hs]
  | escaped =>
    have hrecv : (s.takeChar.drive c).receive c =
        ((s.takeChar.drive c).setMode .normal).appendByte (translateByte s.par c) := by
      simp [State.receive, hm, detect]
    rw [hrecv]
    unfold decodeReceived translateByte
    dsimp only
    split
    · subst c; rfl
    · split
      · subst c; rfl
      · rfl

/-- A payload byte read at E1 is handled as the row it is (R81, R160). -/
theorem encodeE1_eq_exec_payload {s : State} {b : Byte} (hs : s.seq = .e1) (hb : s.memRead1 s.idx.toNat = .ok b) :
    encodeE1 s = exec (decodePayload s.par b) s := by
  unfold encodeE1 decodePayload
  rw [hb]
  simp only [orFault]
  split
  · simp only [exec, execTxEscapeEnd, hs]
  · split
    · simp only [exec, execTxEscapeEsc, hs]
    · rfl

/-- `GO` on a reserved code answers what the row `RESERVED` answers (R90, R235). -/
theorem execGo_eq_exec_reserved {s : State} (h : Seq.first s.op = none) : execGo s = exec s.command s := by
  have hgo : execGo s = execReserved s.op s.len s.off s := by
    unfold execGo execReserved
    rw [h]
    split <;> rfl
  obtain ⟨ho, _⟩ | ⟨ho, _⟩ | ⟨ho, _⟩ | ⟨ho, _⟩ | ⟨_, he⟩ := exec_command s s
  case inr.inr.inr.inr => rw [hgo, he]
  all_goals
    rw [ho] at h
    cases h

theorem step_of_reserved {s : State} {v : Word} {rest : List Input} (hp : s.par.ok = true)
    (hi : s.inputs = .host (.writeReg 3 v) :: rest) (h : Seq.first s.op = none) :
    step s = exec s.command s.takeInput :=
  (step_of_host hp hi).trans (execGo_eq_exec_reserved (s := s.takeInput) h)

/-- A command word stands at its first step; the host's `GO` write answers for a reserved code. -/
theorem step_placeCommand {s : State} (hp : s.par.ok = true) (op : BitVec 3) (len off : Byte) :
    step (s.placeCommand op len off) = exec (decodeCommand op len off) (s.placeCommand op len off).takeInput := by
  unfold State.placeCommand
  cases hq : Seq.first op with
  | some q =>
    dsimp only
    exact step_of_running hp (.inl rfl) (Seq.first_some hq).2.2
  | none =>
    dsimp only
    exact step_of_reserved hp rfl hq

theorem step_placeReceived {s : State} (hp : s.par.ok = true) (m : Mode) (c : Byte) :
    step (s.placeReceived m c) = exec (decodeReceived s.par m c) (s.placeReceived m c).takeInput := by
  have hrun : (s.placeReceived m c).seq ≠ .idle := by simp [State.placeReceived]
  have hd1 := decodeD1_eq_exec_received (s := (s.placeReceived m c).takeInput) rfl rfl
  exact (step_of_running (s := s.placeReceived m c) hp (.inl rfl) hrun).trans hd1

theorem step_placePayload {s : State} (hp : s.par.ok = true) (hsize : 0 < s.par.bufSize.val) (b : Byte) :
    step (s.placePayload b) = exec (decodePayload s.par b) (s.placePayload b).takeInput := by
  have hrun : (s.placePayload b).seq ≠ .idle := by simp [State.placePayload]
  have hb : (s.placePayload b).takeInput.memRead1 0 = .ok b :=
    State.memRead1_ok.mpr ⟨hsize, Memory.get_set_same s.buf 0 b⟩
  have he1 := encodeE1_eq_exec_payload (s := (s.placePayload b).takeInput) rfl hb
  exact (step_of_running (s := s.placePayload b) hp (.inl rfl) hrun).trans he1

theorem step_placeGo {s : State} (hp : s.par.ok = true) : step s.placeGo = exec .go s.placeGo.takeInput :=
  step_of_host (s := s.placeGo) hp rfl

/-- Settles O5, stream by stream: bytes that decode have the shape of their stream's codes. -/
theorem placedWordRunsNext : Obligations.PlacedWordRunsNext := by
  intro s st bytes i hp hsize hd
  unfold decode at hd
  split at hd
  · split at hd <;> cases hd
    exact step_placeCommand hp _ _ _
  · cases hd; exact step_placeReceived hp _ _
  · cases hd; exact step_placePayload hp hsize _
  · rename_i r
    by_cases hr : r = 3
    · rw [if_pos hr] at hd
      cases hd
      rw [hr]
      exact step_placeGo hp
    · rw [if_neg hr] at hd
      cases hd
  · cases hd

end Sys2Proof.Machine
end

section
/-! ## The accesses of the block to `BUF` (20_memory R51 to R53) -/

namespace Sys2Proof.Machine

theorem orFault_of_ok {α : Type} {r : Except Fault α} {v : α} (h : r = .ok v) (k : α → Result) :
    orFault r k = k v := by rw [h]; rfl

theorem orFault_of_error {α : Type} {r : Except Fault α} {f : Fault} (h : r = .error f) (k : α → Result) :
    orFault r k = .fault f := by rw [h]; rfl

section
variable {s : State} {a : Nat}

/-! Past the end of the buffer every access faults (R51); within it a read faults on a byte nothing has written
(R252). -/

theorem State.memRead1_outside (h : s.par.bufSize.val < a + 1) : s.memRead1 a = .error .bufBounds :=
  State.memRead1_error.mpr (.inl ⟨Nat.not_le.mpr h, rfl⟩)

theorem State.memRead2_outside (h : s.par.bufSize.val < a + 2) : s.memRead2 a = .error .bufBounds :=
  State.memRead2_error.mpr (.inl ⟨Nat.not_le.mpr h, rfl⟩)

theorem State.memWrite1_outside (b : Byte) (h : s.par.bufSize.val < a + 1) : s.memWrite1 a b = .error .bufBounds :=
  State.memWrite1_error.mpr ⟨Nat.not_le.mpr h, rfl⟩

theorem State.memWrite2_outside (v : Word) (h : s.par.bufSize.val < a + 2) : s.memWrite2 a v = .error .bufBounds :=
  State.memWrite2_error.mpr ⟨Nat.not_le.mpr h, rfl⟩

theorem State.memRead1_unwritten (h : a + 1 ≤ s.par.bufSize.val) (hb : s.buf.get a = none) :
    s.memRead1 a = .error .unwrittenRead :=
  State.memRead1_error.mpr (.inr ⟨h, hb, rfl⟩)

theorem State.memRead2_unwritten (h : a + 2 ≤ s.par.bufSize.val)
    (hb : s.buf.get a = none ∨ s.buf.get (a + 1) = none) : s.memRead2 a = .error .unwrittenRead :=
  State.memRead2_error.mpr (.inr ⟨h, hb, rfl⟩)

theorem State.memRead1_written {b : Byte} (h : a + 1 ≤ s.par.bufSize.val) (hb : s.buf.get a = some b) :
    s.memRead1 a = .ok b :=
  State.memRead1_ok.mpr ⟨h, hb⟩

end

section
variable {s t : State} {a : Nat}

/-! What a write leaves in `BUF`, and what is read back. -/

theorem State.memWrite1_get_same {b : Byte} (h : s.memWrite1 a b = .ok t) : t.buf.get a = some b := by
  obtain ⟨_, rfl⟩ := State.memWrite1_ok.mp h
  exact Memory.get_set_same _ _ _

theorem State.memWrite1_get_other {b : Byte} (h : s.memWrite1 a b = .ok t) {j : Nat} (hj : j ≠ a) :
    t.buf.get j = s.buf.get j := by
  obtain ⟨_, rfl⟩ := State.memWrite1_ok.mp h
  exact Memory.get_set_other _ _ hj

theorem State.memRead1_memWrite1 {b : Byte} (h : s.memWrite1 a b = .ok t) : t.memRead1 a = .ok b := by
  have hb := State.memWrite1_get_same h
  obtain ⟨ha, rfl⟩ := State.memWrite1_ok.mp h
  exact State.memRead1_written ha hb

/-- The two bytes of a field, the one at the lower index first (R53). -/
theorem State.memWrite2_get_field {v : Word} (h : s.memWrite2 a v = .ok t) :
    t.buf.get a = some (crcBytes s.par.order v).1 ∧ t.buf.get (a + 1) = some (crcBytes s.par.order v).2 := by
  obtain ⟨_, rfl⟩ := State.memWrite2_ok.mp h
  exact ⟨by simp [Memory.get_set], by simp⟩

theorem State.memWrite2_get_other {v : Word} (h : s.memWrite2 a v = .ok t) {j : Nat} (hj : j ≠ a)
    (hj' : j ≠ a + 1) : t.buf.get j = s.buf.get j := by
  obtain ⟨_, rfl⟩ := State.memWrite2_ok.mp h
  exact (Memory.get_set_other _ _ hj').trans (Memory.get_set_other _ _ hj)

theorem State.memRead2_memWrite2 {v : Word} (h : s.memWrite2 a v = .ok t) : t.memRead2 a = .ok v := by
  obtain ⟨hlo, hhi⟩ := State.memWrite2_get_field h
  obtain ⟨ha, rfl⟩ := State.memWrite2_ok.mp h
  exact State.memRead2_ok.mpr ⟨ha, _, _, hlo, hhi, (crcOfBytes_crcBytes _ _).symm⟩

end

/-- Settles O48: the writes within the buffer by what they leave in `BUF`, the accesses past its end by their fault. -/
theorem bufferReadsAfterWrites : Obligations.BufferReadsAfterWrites := by
  intro s a b v
  refine ⟨fun ha => ?_, fun ha => ?_, fun ha => ⟨State.memWrite1_outside b ha, State.memRead1_outside ha⟩,
    fun ha => ⟨State.memWrite2_outside v ha, State.memRead2_outside ha⟩⟩
  · obtain ⟨t, hw⟩ : ∃ t, s.memWrite1 a b = .ok t := ⟨_, State.memWrite1_ok.mpr ⟨ha, rfl⟩⟩
    exact ⟨_, hw, State.memRead1_memWrite1 hw, fun _ => State.memWrite1_get_other hw, State.memWrite1_wf hw⟩
  · obtain ⟨t, hw⟩ : ∃ t, s.memWrite2 a v = .ok t := ⟨_, State.memWrite2_ok.mpr ⟨ha, rfl⟩⟩
    have hfield := State.memWrite2_get_field hw
    refine ⟨_, hw, State.memRead2_memWrite2 hw, fun ho => ?_, fun ho => ?_, fun _ => State.memWrite2_get_other hw,
      State.memWrite2_wf hw⟩
    · rw [ho] at hfield; exact hfield
    · rw [ho] at hfield; exact hfield

end Sys2Proof.Machine
end

section
/-! ## The labelled step a command in progress runs (10_state R33) -/

namespace Sys2Proof.Machine

/-- The labelled step of R130, R160, R190 or R210 that a step label names; at IDLE the block rests (R41). -/
def Seq.labelledStep (q : Seq) (s : State) : Result :=
  match q with
  | .idle => .next s
  | .d0 => decodeD0 s
  | .d1 => decodeD1 s
  | .e0 => encodeE0 s
  | .e1 => encodeE1 s
  | .e2 => encodeE2 s
  | .e3 => encodeE3 s
  | .v0 => verifyV0 s
  | .v1 => verifyV1 s
  | .v2 => verifyV2 s
  | .v3 => verifyV3 s
  | .v4 => verifyV4 s
  | .a0 => appendA0 s
  | .a1 => appendA1 s
  | .a2 => appendA2 s

section
variable {s : State} {q : Seq} (hs : s.seq = q) (off : Byte)
include hs

/-! A command whose operands are those of the registers runs the step of its own that `SEQ` names (log 14). -/

theorem exec_decode_labelled (hq : q.opCode = some 0) : exec (.decode s.len off) s = q.labelledStep s := by
  simp only [exec, execDecode, hs, State.hasLen_self, inProgress_true]
  cases q with
  | d0 | d1 => rfl
  | _ => exact absurd hq (by decide)

theorem exec_encode_labelled (hq : q.opCode = some 1) : exec (.encode s.len off) s = q.labelledStep s := by
  simp only [exec, execEncode, hs, State.hasLen_self, inProgress_true]
  cases q with
  | e0 | e1 | e2 | e3 => rfl
  | _ => exact absurd hq (by decide)

theorem exec_verify_labelled (hq : q.opCode = some 2) : exec (.verify s.len s.off) s = q.labelledStep s := by
  simp only [exec, execVerify, hs, State.hasLenOff_self, inProgress_true]
  cases q with
  | v0 | v1 | v2 | v3 | v4 => rfl
  | _ => exact absurd hq (by decide)

theorem exec_append_labelled (hq : q.opCode = some 3) : exec (.append s.len off) s = q.labelledStep s := by
  simp only [exec, execAppend, hs, State.hasLen_self, inProgress_true]
  cases q with
  | a0 | a1 | a2 => rfl
  | _ => exact absurd hq (by decide)

end

end Sys2Proof.Machine
end

section
/-! ## Where the accesses of ENCODE, VERIFY and APPEND fault, and what their steps do otherwise -/

namespace Sys2Proof.Machine

/-- Settles O22: E1 begins with the read of `BUF[IDX]`. -/
theorem encodeReadFaults : Obligations.EncodeReadFaults := by
  intro s off hs
  refine ⟨fun hi => ?_, fun hi hb => ?_⟩
  · exact (exec_encode_labelled hs off rfl).trans (orFault_of_error (State.memRead1_outside (by omega)) _)
  · exact (exec_encode_labelled hs off rfl).trans (orFault_of_error (State.memRead1_unwritten hi hb) _)

/-- Settles O28: V1, V2 and V3 begin with their access. -/
theorem verifyFaults : Obligations.VerifyFaults := by
  intro s
  refine ⟨fun hs hf => ?_, fun hs hf hb => ?_, fun hs hi => ?_, fun hs hi hb => ?_⟩
  · obtain hs | hs := hs
    · exact (exec_verify_labelled hs rfl).trans (orFault_of_error (State.memRead2_outside hf) _)
    · exact (exec_verify_labelled hs rfl).trans (orFault_of_error (State.memWrite2_outside 0 hf) _)
  · exact (exec_verify_labelled hs rfl).trans (orFault_of_error (State.memRead2_unwritten hf hb) _)
  · exact (exec_verify_labelled hs rfl).trans (orFault_of_error (State.memRead1_outside (by omega)) _)
  · exact (exec_verify_labelled hs rfl).trans (orFault_of_error (State.memRead1_unwritten hi hb) _)

/-- Settles O33: A0, A1 and A2 begin with their access. -/
theorem appendFaults : Obligations.AppendFaults := by
  intro s off
  refine ⟨fun hs hf => ?_, fun hs hi => ?_, fun hs hi hb => ?_⟩
  · obtain hs | hs := hs
    · exact (exec_append_labelled hs off rfl).trans (orFault_of_error (State.memWrite2_outside 0 hf) _)
    · exact (exec_append_labelled hs off rfl).trans (orFault_of_error (State.memWrite2_outside _ hf) _)
  · exact (exec_append_labelled hs off rfl).trans (orFault_of_error (State.memRead1_outside (by omega)) _)
  · exact (exec_append_labelled hs off rfl).trans (orFault_of_error (State.memRead1_unwritten hi hb) _)

/-- Both bytes of a zero field are zero, in either order. -/
theorem crcBytes_zero (o : ByteOrder) : crcBytes o 0 = (0, 0) := by cases o <;> rfl

/-- A field is cleared by two zero bytes, in either order (R53). -/
theorem State.memWrite2_zero {s : State} {a : Nat} (h : a + 2 ≤ s.par.bufSize.val) :
    s.memWrite2 a 0 = .ok { s with buf := (s.buf.set a 0).set (a + 1) 0 } := by
  rw [State.memWrite2_ok, crcBytes_zero]
  exact ⟨h, rfl⟩

/-- The sum of R210 is exact: it is at most 257. -/
theorem appendTotal_eq (len : Byte) : appendTotal len = BitVec.ofNat 16 (len.toNat + 2) := by
  unfold appendTotal zext16; bv_omega

/-- Settles O26: V1 to V3 go on with what their access answers, V4 makes none. -/
theorem verifySteps : Obligations.VerifySteps := by
  intro s
  refine ⟨fun lo hi hs hf hlo hhi => ?_, fun hs hf => ?_, fun b hs hi hb => ?_, fun hs => ?_⟩
  · have hr := State.memRead2_ok.mpr ⟨hf, lo, hi, hlo, hhi, rfl⟩
    exact (exec_verify_labelled hs rfl).trans (orFault_of_ok hr _)
  · exact (exec_verify_labelled hs rfl).trans (orFault_of_ok (State.memWrite2_zero hf) _)
  · exact (exec_verify_labelled hs rfl).trans (orFault_of_ok (State.memRead1_written hi hb) _)
  · exact exec_verify_labelled hs rfl

/-- Settles O31: A0, A1 and A2 go on with what their access answers. -/
theorem appendSteps : Obligations.AppendSteps := by
  intro s off
  refine ⟨fun hs hf => ?_, fun b hs hi hb => ?_, fun hs hf => ?_⟩
  · exact (exec_append_labelled hs off rfl).trans (orFault_of_ok (State.memWrite2_zero hf) _)
  · exact (exec_append_labelled hs off rfl).trans (orFault_of_ok (State.memRead1_written hi hb) _)
  · rw [← appendTotal_eq]
    exact (exec_append_labelled hs off rfl).trans (orFault_of_ok (State.memWrite2_ok.mpr ⟨hf, rfl⟩) _)

end Sys2Proof.Machine
end

section
/-! ## The receive rows and the waiting D1 -/

namespace Sys2Proof.Machine

/-- A poll spends a draw and changes nothing else (log 9). -/
theorem State.spendDraw_eq (s : State) : ∃ polls draws, s.spendDraw = { s with polls := polls, draws := draws } := by
  unfold State.spendDraw
  split
  · exact ⟨_, s.draws, rfl⟩
  · exact ⟨s.polls, _, rfl⟩

/-- A consumed character drives the detector's lines, which see `MODE` and `CNT` as they stood (log 15). -/
theorem State.takeChar_drive (s : State) (c : Byte) :
    s.takeChar.drive c = { s.takeChar with det := detect s.par s.mode s.cnt c } := by
  simp [State.drive]

theorem State.appendByte_outside {s : State} (h : s.par.bufSize.val ≤ s.cnt.toNat) (v : Byte) :
    s.appendByte v = .fault .bufBounds := by
  rw [State.appendByte_eq]; exact if_neg (by omega)

/-- Settles O8: with nothing held the poll answers the state itself, with a character withheld it spends a draw. -/
theorem decodeWaitsForCharacter : Obligations.DecodeWaitsForCharacter := by
  intro s off hs
  rw [exec_decode_labelled hs off rfl]
  refine ⟨fun hr => decodeD1_of_none (State.rxPoll_of_nil hr), fun hr ha => ?_⟩
  obtain ⟨c, rest, hr⟩ := List.exists_cons_of_ne_nil hr
  obtain ⟨polls, draws, hd⟩ := s.spendDraw_eq
  exact ⟨polls, draws, (decodeD1_of_none (State.rxPoll_of_withheld hr ha)).trans (congrArg _ hd)⟩

/-- Settles O10: both rows consume the character and drive the lines (`State.takeChar_drive`). -/
theorem receivedEndAndEscape : Obligations.ReceivedEndAndEscape := by
  intro s
  refine ⟨fun h0 => ?_, fun h0 => ?_, ?_⟩
  · simp only [exec, execRxEnd, if_pos h0, State.takeChar_drive]
  · simp only [exec, execRxEnd, if_neg h0, State.takeChar_drive, State.complete]
  · simp only [exec, execRxEsc, State.takeChar_drive, State.setMode]

/-- The four rows of a received data character (R82). -/
def IsDataRow (i : Instr) : Prop :=
  (∃ c, i = .rxData c) ∨ i = .rxXlEnd ∨ i = .rxXlEsc ∨ ∃ c, i = .rxXlOther c

/-- A data row consumes its character, leaves some mode and appends some byte. -/
theorem exec_dataRow {i : Instr} (hi : IsDataRow i) (s : State) :
    ∃ c m v, exec i s = ((s.takeChar.drive c).setMode m).appendByte v := by
  obtain ⟨c, rfl⟩ | rfl | rfl | ⟨c, rfl⟩ := hi
  · exact ⟨c, s.takeChar.mode, c, rfl⟩
  · exact ⟨s.par.escEnd, .normal, s.par.endC, rfl⟩
  · exact ⟨s.par.escEsc, .normal, s.par.escC, rfl⟩
  · exact ⟨c, .normal, c, rfl⟩

/-- An append at an index the buffer does not have faults, whichever row appends (R51). -/
theorem exec_dataRow_outside {i : Instr} (hi : IsDataRow i) {s : State} (h : s.par.bufSize.val ≤ s.cnt.toNat) :
    exec i s = .fault .bufBounds := by
  obtain ⟨c, m, v, he⟩ := exec_dataRow hi s
  rw [he]
  exact State.appendByte_outside (by simpa using h) v

/-- Settles O12, once for the four data rows. -/
theorem receivedDataPastBufferFaults : Obligations.ReceivedDataPastBufferFaults := by
  intro s c h
  exact ⟨exec_dataRow_outside (.inl ⟨c, rfl⟩) h, exec_dataRow_outside (.inr (.inl rfl)) h,
    exec_dataRow_outside (.inr (.inr (.inl rfl))) h, exec_dataRow_outside (.inr (.inr (.inr ⟨c, rfl⟩))) h⟩

end Sys2Proof.Machine
end

section
/-! ## A running block steps within its bounds (R68, R237) -/

namespace Sys2Proof.Machine

/-- A step of a command in its own right: it goes on, or an access faults, with `BufBounds` only where `p` holds. -/
def stepsOrFaults (p : Prop) (r : Result) : Prop :=
  (∃ t, r = .next t) ∨ r = .fault .unwrittenRead ∨ (p ∧ r = .fault .bufBounds)

theorem stepsOrFaults.not_refused {p : Prop} {r : Result} (h : stepsOrFaults p r) (f : Refusal) : r ≠ .refused f := by
  obtain ⟨t, rfl⟩ | rfl | ⟨_, rfl⟩ := h <;> simp

theorem stepsOrFaults.of_bufBounds {p : Prop} {r : Result} (h : stepsOrFaults p r) (hr : r = .fault .bufBounds) : p := by
  obtain ⟨t, rfl⟩ | rfl | ⟨hp, _⟩ := h
  · cases hr
  · cases hr
  · exact hp

/-- An access and what follows it: only the access can fault. -/
theorem stepsOrFaults_orFault {α : Type} {p : Prop} {r : Except Fault α} {k : α → Result}
    (hr : r = .error .bufBounds → p) (hk : ∀ v, ∃ t, k v = .next t) : stepsOrFaults p (orFault r k) := by
  cases r with
  | ok v => exact .inl (hk v)
  | error f =>
    cases f with
    | bufBounds => exact .inr (.inr ⟨hr rfl, rfl⟩)
    | unwrittenRead => exact .inr (.inl rfl)

section
variable {s : State} {a : Nat}

/-! `BufBounds` is the fault of an access past the end of the buffer, and of no other. -/

theorem State.lt_of_memRead1_bufBounds (h : s.memRead1 a = .error .bufBounds) : s.par.bufSize.val < a + 1 := by
  obtain ⟨hlt, _⟩ | ⟨_, _, hf⟩ := State.memRead1_error.mp h
  · exact Nat.not_le.mp hlt
  · cases hf

theorem State.lt_of_memRead2_bufBounds (h : s.memRead2 a = .error .bufBounds) : s.par.bufSize.val < a + 2 := by
  obtain ⟨hlt, _⟩ | ⟨_, _, hf⟩ := State.memRead2_error.mp h
  · exact Nat.not_le.mp hlt
  · cases hf

theorem State.lt_of_memWrite2_bufBounds {v : Word} (h : s.memWrite2 a v = .error .bufBounds) :
    s.par.bufSize.val < a + 2 :=
  Nat.not_le.mp (State.memWrite2_error.mp h).1

end

/-! ### DECODE -/

theorem stepsOrFaults_appendByte {p : Prop} {s : State} (h : s.par.bufSize.val < s.cnt.toNat + 1 → p) (v : Byte) :
    stepsOrFaults p (s.appendByte v) := by
  rw [State.appendByte_eq]
  split
  · exact .inl ⟨_, rfl⟩
  · exact .inr (.inr ⟨h (by omega), rfl⟩)

/-- A received character is an `END`, an `ESC` or a data character (R82). -/
theorem decodeReceived_cases (p : Params) (m : Mode) (c : Byte) :
    decodeReceived p m c = .rxEnd ∨ decodeReceived p m c = .rxEsc ∨ IsDataRow (decodeReceived p m c) := by
  unfold decodeReceived IsDataRow
  cases m with
  | normal => dsimp only; split_ifs <;> simp
  | escaped => dsimp only; split_ifs <;> simp

theorem decodeD0_goesOn (s : State) : ∃ t, decodeD0 s = .next t := by
  unfold decodeD0
  split <;> exact ⟨_, rfl⟩

theorem decodeD1_stepsOrFaults {p : Prop} {s : State} (h : s.par.bufSize.val < s.cnt.toNat + 1 → p) :
    stepsOrFaults p (decodeD1 s) := by
  obtain ⟨_, hp⟩ | ⟨c, rest, _, _, hp⟩ | ⟨c, rest, hr, ha, _⟩ := s.rxPoll_cases
  · exact .inl ⟨_, decodeD1_of_none hp⟩
  · exact .inl ⟨_, decodeD1_of_none hp⟩
  · rw [decodeD1_eq_exec_received hr ha]
    obtain hi | hi | hi := decodeReceived_cases s.par s.mode c
    · rw [hi]
      by_cases h0 : s.cnt = 0
      · exact .inl ⟨_, if_pos h0⟩
      · exact .inl ⟨_, if_neg h0⟩
    · rw [hi]; exact .inl ⟨_, rfl⟩
    · obtain ⟨c, m, v, he⟩ := exec_dataRow hi s
      rw [he]
      exact stepsOrFaults_appendByte (by simpa using h) v

/-! ### ENCODE and VERIFY -/

theorem encodeE1_stepsOrFaults {p : Prop} {s : State} (h : s.par.bufSize.val < s.idx.toNat + 1 → p) :
    stepsOrFaults p (encodeE1 s) := by
  refine stepsOrFaults_orFault (fun hr => h (State.lt_of_memRead1_bufBounds hr)) fun b => ?_
  split
  · exact ⟨_, rfl⟩
  · split <;> exact ⟨_, rfl⟩

theorem verifyV0_goesOn (s : State) : ∃ t, verifyV0 s = .next t := by
  unfold verifyV0
  split <;> exact ⟨_, rfl⟩

/-! ### Any running block -/

/-- R68: the operand ranges within which the block addresses only bytes that exist. -/
def State.operandsInRange (s : State) : Prop :=
  (s.op = 3 → s.len.toNat + 2 ≤ s.par.bufSize.val) ∧ (s.op ≠ 3 → s.len.toNat ≤ s.par.bufSize.val)

theorem State.not_inRange_of_len {s : State} {c : BitVec 3} (hop : s.op = c) (hc : c ≠ 3)
    (h : s.par.bufSize.val < s.len.toNat) : ¬ s.operandsInRange :=
  fun hr => Nat.not_le.mpr h (hr.2 (hop ▸ hc))

theorem State.not_inRange_of_append {s : State} (hop : s.op = 3) (h : s.par.bufSize.val < s.len.toNat + 2) :
    ¬ s.operandsInRange :=
  fun hr => Nat.not_le.mpr h (hr.1 hop)

/-- Every labelled step goes on or faults, and every address lies below the operands' bound by the invariant. -/
theorem labelledStep_stepsOrFaults {s : State} (h : s.Inv) (hs : s.seq ≠ .idle) :
    stepsOrFaults (¬ s.operandsInRange) (s.seq.labelledStep s) := by
  have hlive := h.live
  unfold State.live at hlive
  cases hq : s.seq <;> simp only [hq] at hlive
  case idle => exact absurd hq hs
  case d0 => exact .inl (decodeD0_goesOn s)
  case d1 =>
    exact decodeD1_stepsOrFaults fun hb => State.not_inRange_of_len hlive.1 (by decide) (by omega)
  case e0 => exact .inl ⟨_, rfl⟩
  case e1 =>
    exact encodeE1_stepsOrFaults fun hb => State.not_inRange_of_len hlive.1 (by decide) (by omega)
  case e2 => exact .inl ⟨_, rfl⟩
  case e3 => exact .inl ⟨_, rfl⟩
  case v0 => exact .inl (verifyV0_goesOn s)
  case v1 =>
    refine stepsOrFaults_orFault (fun hr => ?_) fun v => ⟨_, rfl⟩
    have hb := State.lt_of_memRead2_bufBounds hr
    exact State.not_inRange_of_len hlive.1 (by decide) (by omega)
  case v2 =>
    refine stepsOrFaults_orFault (fun hr => ?_) fun v => ⟨_, rfl⟩
    have hb := State.lt_of_memWrite2_bufBounds hr
    exact State.not_inRange_of_len hlive.1 (by decide) (by omega)
  case v3 =>
    refine stepsOrFaults_orFault (fun hr => ?_) fun v => ⟨_, rfl⟩
    have hb := State.lt_of_memRead1_bufBounds hr
    exact State.not_inRange_of_len hlive.1 (by decide) (by omega)
  case v4 => exact .inl ⟨_, rfl⟩
  case a0 =>
    refine stepsOrFaults_orFault (fun hr => ?_) fun v => ⟨_, rfl⟩
    exact State.not_inRange_of_append hlive (State.lt_of_memWrite2_bufBounds hr)
  case a1 =>
    refine stepsOrFaults_orFault (fun hr => ?_) fun v => ⟨_, rfl⟩
    have hb := State.lt_of_memRead1_bufBounds hr
    exact State.not_inRange_of_append hlive.1 (by omega)
  case a2 =>
    refine stepsOrFaults_orFault (fun hr => ?_) fun v => ⟨_, rfl⟩
    exact State.not_inRange_of_append hlive.1 (State.lt_of_memWrite2_bufBounds hr)

/-- Every step label belongs to an operation that `GO` starts. -/
theorem Seq.opCode_of_running {q : Seq} (h : q ≠ .idle) : ∃ c, q.opCode = some c ∧ Seq.first c ≠ none := by
  cases q with
  | idle => exact absurd rfl h
  | _ => exact ⟨_, rfl, by decide⟩

/-- In a state that meets the invariant the command in the registers is the one in progress, so its labelled step
runs (log 14). -/
theorem exec_command_labelled {s : State} (h : s.Inv) (hs : s.seq ≠ .idle) :
    exec s.command s = s.seq.labelledStep s := by
  obtain ⟨c, hc, hfirst⟩ := Seq.opCode_of_running hs
  obtain rfl := h.op_of_seq c hc
  obtain ⟨hop, he⟩ | ⟨hop, he⟩ | ⟨hop, he⟩ | ⟨hop, he⟩ | ⟨hnone, _⟩ := exec_command s s
  · exact he.trans (exec_decode_labelled rfl s.off (hop ▸ hc))
  · exact he.trans (exec_encode_labelled rfl s.off (hop ▸ hc))
  · exact he.trans (exec_verify_labelled rfl (hop ▸ hc))
  · exact he.trans (exec_append_labelled rfl s.off (hop ▸ hc))
  · exact absurd hnone hfirst

/-- Settles O57: the command in progress runs its labelled step, which goes on or faults
(`labelledStep_stepsOrFaults`). -/
theorem runningBlockStepsWithinBounds : Obligations.RunningBlockStepsWithinBounds := by
  intro s h hs
  have hstep := labelledStep_stepsOrFaults h hs
  rw [exec_command_labelled h hs]
  exact ⟨hstep.not_refused, fun happend hother hf => hstep.of_bufBounds hf ⟨happend, hother⟩⟩

end Sys2Proof.Machine
end

section
/-! ## What the steps and rows of the commands leave unchanged (R67) -/

namespace Sys2Proof.Machine

/-! ### ENCODE, VERIFY and APPEND -/

/-- `t` has what ENCODE, VERIFY and APPEND alike leave unchanged in `s`: the parameters, the operands, `MODE` and `CNT`,
the receive side, the detector and the outside (R165, R193, R215). -/
structure State.LeavesReceiveSide (s t : State) : Prop where
  par : t.par = s.par
  op : t.op = s.op
  len : t.len = s.len
  off : t.off = s.off
  mode : t.mode = s.mode
  cnt : t.cnt = s.cnt
  rxs : t.rxs = s.rxs
  polls : t.polls = s.polls
  draws : t.draws = s.draws
  det : t.det = s.det
  inputs : t.inputs = s.inputs
  hostRead : t.hostRead = s.hostRead
  resetHeld : t.resetHeld = s.resetHeld

theorem State.LeavesReceiveSide.refl (s : State) : s.LeavesReceiveSide s :=
  ⟨rfl, rfl, rfl, rfl, rfl, rfl, rfl, rfl, rfl, rfl, rfl, rfl, rfl⟩

/-- `t` is `s` after one character has been sent, with `IDX`, `SUB`, `SEQ`, `BUSY` and the result free. -/
structure State.Sends (s t : State) : Prop extends s.LeavesReceiveSide t where
  crc : t.crc = s.crc
  rcrc : t.rcrc = s.rcrc
  buf : t.buf = s.buf
  sent : ∃ c, t.txlog = s.txlog ++ [c]

theorem State.sends_txSend (s : State) (c : Byte) : s.Sends (s.txSend c) :=
  { State.LeavesReceiveSide.refl s with crc := rfl, rcrc := rfl, buf := rfl, sent := ⟨c, rfl⟩ }

theorem encodeE0_sends {s t : State} (h : encodeE0 s = .next t) : s.Sends t := by
  cases h; exact { s.sends_txSend _ with }

theorem encodeE2_sends {s t : State} (h : encodeE2 s = .next t) : s.Sends t := by
  cases h; exact { s.sends_txSend _ with }

theorem encodeE3_sends {s t : State} (h : encodeE3 s = .next t) : s.Sends t := by
  cases h; exact { s.sends_txSend _ with }

theorem State.sends_sendEscape (s : State) (c : Byte) : s.Sends (s.sendEscape c) :=
  { s.sends_txSend s.par.escC with }

theorem State.sends_advance (s : State) (c : Byte) (q : Seq) : s.Sends ((s.txSend c).advance q) :=
  { s.sends_txSend c with }

/-- Every step of ENCODE sends one character. -/
theorem execEncode_sends {len off : Byte} {s t : State} (hs : s.seq ≠ .idle) (h : execEncode len off s = .next t) :
    s.Sends t := by
  obtain ⟨hi, _⟩ | ⟨_, _, h⟩ | ⟨_, _, h⟩ | ⟨_, _, h⟩ | ⟨_, _, h⟩ := execEncode_next h
  · exact absurd hi hs
  · exact encodeE0_sends h
  · obtain ⟨b, _, _, ⟨_, rfl⟩ | ⟨_, _, rfl⟩ | ⟨_, _, rfl⟩⟩ := encodeE1_next h
    · exact s.sends_sendEscape _
    · exact s.sends_sendEscape _
    · exact s.sends_advance b _
  · exact encodeE2_sends h
  · exact encodeE3_sends h

/-- An escape row sends `ESC` and holds a substitute, or sends the substitute held (R81). -/
theorem exec_txEscape_cases {i : Instr} (hi : i = .txEscapeEnd ∨ i = .txEscapeEsc) (s : State) :
    exec i s = encodeE2 s ∨ ∃ c, exec i s = .next (s.sendEscape c) := by
  obtain rfl | rfl := hi
  · unfold exec execTxEscapeEnd
    cases s.seq with
    | e2 => exact .inl rfl
    | _ => exact .inr ⟨_, rfl⟩
  · unfold exec execTxEscapeEsc
    cases s.seq with
    | e2 => exact .inl rfl
    | _ => exact .inr ⟨_, rfl⟩

theorem exec_txEscape_sends {i : Instr} (hi : i = .txEscapeEnd ∨ i = .txEscapeEsc) {s t : State}
    (h : exec i s = .next t) : s.Sends t := by
  obtain he | ⟨c, he⟩ := exec_txEscape_cases hi s <;> rw [he] at h
  · exact encodeE2_sends h
  · cases h; exact s.sends_sendEscape c

theorem execTxDelimiter_sends {s t : State} (h : execTxDelimiter s = .next t) : s.Sends t := by
  unfold execTxDelimiter at h
  split at h
  · exact encodeE0_sends h
  · exact encodeE3_sends h
  · cases h; exact s.sends_txSend _

/-- Settles O21: each row and each step of ENCODE sends one character and leaves the rest (`State.Sends`). -/
theorem transmitFrame : Obligations.TransmitFrame := by
  intro s t i hi h
  have hk : s.Sends t := by
    obtain rfl | rfl | rfl | ⟨b, rfl⟩ | ⟨hs, len, off, rfl⟩ := hi
    · exact execTxDelimiter_sends h
    · exact exec_txEscape_sends (.inl rfl) h
    · exact exec_txEscape_sends (.inr rfl) h
    · cases h; exact s.sends_advance b _
    · exact execEncode_sends (off := off) hs h
  exact ⟨hk.par, hk.op, hk.len, hk.off, hk.mode, hk.cnt, hk.crc, hk.rcrc, hk.rxs, hk.polls, hk.draws, hk.det, hk.inputs,
    hk.hostRead, hk.resetHeld, fun a => by rw [hk.buf]⟩

/-- `t` is `s` with what VERIFY and APPEND write left free: `IDX`, `CRC`, `RCRC`, `SEQ`, the result, and the two bytes of
the field at `a`. -/
structure State.ComputesCrc (s t : State) (a : Nat) : Prop extends s.LeavesReceiveSide t where
  sub : t.sub = s.sub
  txlog : t.txlog = s.txlog
  other : ∀ j, j ≠ a → j ≠ a + 1 → t.buf.get j = s.buf.get j

theorem State.ComputesCrc.refl (s : State) (a : Nat) : s.ComputesCrc s a :=
  { State.LeavesReceiveSide.refl s with sub := rfl, txlog := rfl, other := fun _ _ _ => rfl }

theorem State.computesCrc_memWrite2 {s t : State} {a : Nat} {v : Word} (h : s.memWrite2 a v = .ok t) :
    s.ComputesCrc t a := by
  have hother := fun j hj hj' => State.memWrite2_get_other h (j := j) hj hj'
  obtain ⟨_, rfl⟩ := State.memWrite2_ok.mp h
  exact { State.ComputesCrc.refl s a with other := hother }

theorem State.memWrite2_rcrc {s t : State} {a : Nat} {v : Word} (h : s.memWrite2 a v = .ok t) : t.rcrc = s.rcrc := by
  obtain ⟨_, rfl⟩ := State.memWrite2_ok.mp h; rfl

/-- A step of VERIFY writes the field at most, and only at V2. -/
theorem execVerify_computesCrc {len off : Byte} {s t : State} (hs : s.seq ≠ .idle)
    (h : execVerify len off s = .next t) :
    s.ComputesCrc t s.off.toNat ∧ (s.seq ≠ .v2 → t.buf = s.buf) := by
  have hrefl := State.ComputesCrc.refl s s.off.toNat
  obtain ⟨hi, _⟩ | ⟨_, _, ⟨_, h⟩ | ⟨_, h⟩ | ⟨hq, h⟩ | ⟨_, h⟩ | ⟨_, h⟩⟩ := execVerify_next h
  · exact absurd hi hs
  · obtain ⟨_, rfl⟩ | rfl := verifyV0_next h
    · exact ⟨{ hrefl with }, fun _ => rfl⟩
    · exact ⟨{ hrefl with }, fun _ => rfl⟩
  · obtain ⟨v, _, rfl⟩ := verifyV1_next h
    exact ⟨{ hrefl with }, fun _ => rfl⟩
  · obtain ⟨u, hu, rfl⟩ := verifyV2_next h
    exact ⟨{ State.computesCrc_memWrite2 hu with }, fun hne => absurd hq hne⟩
  · obtain ⟨b, _, _, rfl⟩ := verifyV3_next h
    exact ⟨{ hrefl with }, fun _ => rfl⟩
  · cases h; exact ⟨{ hrefl with }, fun _ => rfl⟩

/-- A step of APPEND writes the field behind the data at most, and not at A1; `RCRC` is VERIFY's alone. -/
theorem execAppend_computesCrc {len off : Byte} {s t : State} (hs : s.seq ≠ .idle)
    (h : execAppend len off s = .next t) :
    s.ComputesCrc t s.len.toNat ∧ t.rcrc = s.rcrc ∧ (s.seq = .a1 → t.buf = s.buf) := by
  obtain ⟨hi, _⟩ | ⟨hq, _, h⟩ | ⟨_, _, h⟩ | ⟨hq, _, h⟩ := execAppend_next h
  · exact absurd hi hs
  · obtain ⟨u, hu, rfl⟩ := appendA0_next h
    have hrcrc := State.memWrite2_rcrc hu
    exact ⟨{ State.computesCrc_memWrite2 hu with }, hrcrc, fun hne => by simp [hq] at hne⟩
  · obtain ⟨b, _, _, rfl⟩ := appendA1_next h
    exact ⟨{ State.ComputesCrc.refl s s.len.toNat with }, rfl, fun _ => rfl⟩
  · obtain ⟨u, hu, rfl⟩ := appendA2_next h
    have hrcrc := State.memWrite2_rcrc hu
    exact ⟨{ State.computesCrc_memWrite2 hu with }, hrcrc, fun hne => by simp [hq] at hne⟩

/-- Settles O27, by `execVerify_computesCrc`. -/
theorem verifyFrame : Obligations.VerifyFrame := by
  intro s t len off hs h
  obtain ⟨hk, hbuf⟩ := execVerify_computesCrc hs h
  exact ⟨hk.par, hk.op, hk.len, hk.off, hk.mode, hk.cnt, hk.sub, hk.txlog, hk.rxs, hk.polls, hk.draws, hk.det, hk.inputs,
    hk.hostRead, hk.resetHeld, hk.other, fun hne a => by rw [hbuf hne]⟩

/-- Settles O32, by `execAppend_computesCrc`. -/
theorem appendFrame : Obligations.AppendFrame := by
  intro s t len off hs h
  obtain ⟨hk, hrcrc, hbuf⟩ := execAppend_computesCrc (off := off) hs h
  exact ⟨hk.par, hk.op, hk.len, hk.off, hk.mode, hk.cnt, hrcrc, hk.sub, hk.txlog, hk.rxs, hk.polls, hk.draws, hk.det,
    hk.inputs, hk.hostRead, hk.resetHeld, hk.other, fun hq a => by rw [hbuf hq]⟩

/-! ### DECODE -/

/-- `t` is `s` with what DECODE and the receive rows write left free: `MODE`, `CNT`, `SEQ`, the result, the detector's
lines, the receive side and `BUF[CNT]` (R136, R139). -/
structure State.Receives (s t : State) : Prop where
  par : t.par = s.par
  op : t.op = s.op
  len : t.len = s.len
  off : t.off = s.off
  idx : t.idx = s.idx
  crc : t.crc = s.crc
  rcrc : t.rcrc = s.rcrc
  sub : t.sub = s.sub
  txlog : t.txlog = s.txlog
  resetHeld : t.resetHeld = s.resetHeld
  inputs : t.inputs = s.inputs
  hostRead : t.hostRead = s.hostRead
  other : ∀ j, j ≠ s.cnt.toNat → t.buf.get j = s.buf.get j

theorem State.Receives.refl (s : State) : s.Receives s :=
  ⟨rfl, rfl, rfl, rfl, rfl, rfl, rfl, rfl, rfl, rfl, rfl, rfl, fun _ _ => rfl⟩

theorem State.receives_spendDraw (s : State) : s.Receives s.spendDraw := by constructor <;> simp

theorem State.receives_takeChar_drive (s : State) (c : Byte) : s.Receives (s.takeChar.drive c) := by
  constructor <;> simp

/-- An append at the `CNT` of `s` stores `BUF[CNT]`. -/
theorem State.Receives.appended {s u : State} (h : s.Receives u) (hcnt : u.cnt = s.cnt) (v : Byte) :
    s.Receives (u.appended v) := by
  have hset : ∀ j, j ≠ s.cnt.toNat → (u.buf.set u.cnt.toNat v).get j = s.buf.get j := fun j hj =>
    (Memory.get_set_other _ _ (hcnt ▸ hj)).trans (h.other j hj)
  obtain ⟨_, ht⟩ | ⟨_, ht⟩ := u.appended_cases v <;> rw [ht] <;> exact { h with other := hset }

theorem execRxEnd_receives {s t : State} (h : execRxEnd s = .next t) : s.Receives t ∧ t.buf = s.buf := by
  have hk := s.receives_takeChar_drive s.par.endC
  unfold execRxEnd at h
  split at h <;> cases h
  · exact ⟨hk, by simp⟩
  · exact ⟨{ hk with }, by simp⟩

theorem execRxEsc_receives {s t : State} (h : execRxEsc s = .next t) : s.Receives t ∧ t.buf = s.buf := by
  cases h
  exact ⟨{ s.receives_takeChar_drive s.par.escC with }, by simp⟩

theorem exec_dataRow_receives {i : Instr} (hi : IsDataRow i) {s t : State} (h : exec i s = .next t) :
    s.Receives t := by
  obtain ⟨c, m, v, he⟩ := exec_dataRow hi s
  rw [he] at h
  obtain ⟨_, rfl⟩ := State.appendByte_next.mp h
  have hk : s.Receives ((s.takeChar.drive c).setMode m) := { s.receives_takeChar_drive c with }
  exact hk.appended (by simp) v

/-- D1 waits, or handles a character as the row it is (R82). -/
theorem decodeD1_receives {s t : State} (h : decodeD1 s = .next t) : s.Receives t := by
  obtain ⟨_, hp⟩ | ⟨c, rest, _, _, hp⟩ | ⟨c, rest, hr, ha, _⟩ := s.rxPoll_cases
  · rw [decodeD1_of_none hp] at h
    cases h; exact .refl s
  · rw [decodeD1_of_none hp] at h
    cases h; exact s.receives_spendDraw
  · rw [decodeD1_eq_exec_received hr ha] at h
    obtain hi | hi | hi := decodeReceived_cases s.par s.mode c
    · rw [hi] at h; exact (execRxEnd_receives h).1
    · rw [hi] at h; exact (execRxEsc_receives h).1
    · exact exec_dataRow_receives hi h

theorem decodeD0_receives {s t : State} (h : decodeD0 s = .next t) : s.Receives t ∧ t.buf = s.buf := by
  obtain ⟨_, rfl⟩ | ⟨_, rfl⟩ := decodeD0_next h <;> exact ⟨{ State.Receives.refl s with }, rfl⟩

theorem execDecode_receives {len off : Byte} {s t : State} (hs : s.seq ≠ .idle)
    (h : execDecode len off s = .next t) : s.Receives t := by
  obtain ⟨hi, _⟩ | ⟨_, _, h⟩ | ⟨_, _, h⟩ := execDecode_next h
  · exact absurd hi hs
  · exact (decodeD0_receives h).1
  · exact decodeD1_receives h

/-- Settles O13: the rows and the steps of DECODE leave all but `State.Receives` leaves free. -/
theorem receiveFrame : Obligations.ReceiveFrame := by
  intro s t i hi h
  have hbuf : i = .rxEnd ∨ i = .rxEsc → t.buf = s.buf := by
    rintro (rfl | rfl)
    · exact (execRxEnd_receives h).2
    · exact (execRxEsc_receives h).2
  have hk : s.Receives t := by
    obtain rfl | rfl | hi | hi | hi | hi | ⟨hs, len, off, rfl⟩ := hi
    · exact (execRxEnd_receives h).1
    · exact (execRxEsc_receives h).1
    · exact exec_dataRow_receives (.inl hi) h
    · exact exec_dataRow_receives (.inr (.inl hi)) h
    · exact exec_dataRow_receives (.inr (.inr (.inl hi))) h
    · exact exec_dataRow_receives (.inr (.inr (.inr hi))) h
    · exact execDecode_receives (off := off) (by obtain hs | hs := hs <;> simp [hs]) h
  exact ⟨hk.par, hk.op, hk.len, hk.off, hk.idx, hk.crc, hk.rcrc, hk.sub, hk.txlog, hk.resetHeld, hk.inputs, hk.hostRead,
    hk.other, fun hrow a => by rw [hbuf hrow]⟩

/-! ### DECODE within its capacity -/

/-- `CNT`, and the result of a completed operation, are at most `LEN`. -/
def State.withinCapacity (s : State) : Prop :=
  s.cnt.toNat ≤ s.len.toNat ∧ (s.busy = false → s.res.toNat ≤ s.len.toNat)

theorem zext16_toNat (v : Byte) : (zext16 v).toNat = v.toNat := by
  unfold zext16; rw [BitVec.toNat_setWidth]; omega

theorem State.withinCapacity_of_busy {s : State} (hcnt : s.cnt.toNat ≤ s.len.toNat) (hb : s.busy = true) :
    s.withinCapacity :=
  ⟨hcnt, fun hb' => absurd (hb.symm.trans hb') (by decide)⟩

/-- An append below `LEN` counts up to `LEN` at most, and completes with it (R132). -/
theorem State.withinCapacity_appended {s : State} (hcnt : s.cnt.toNat < s.len.toNat) (hb : s.busy = true) (v : Byte) :
    (s.appended v).withinCapacity := by
  have hle : (s.cnt + 1).toNat ≤ s.len.toNat := by bv_omega
  obtain ⟨_, ht⟩ | ⟨_, ht⟩ := s.appended_cases v <;> rw [ht]
  · exact ⟨hle, fun _ => (zext16_toNat s.len).le⟩
  · exact State.withinCapacity_of_busy hle hb

theorem decodeD0_withinCapacity {s t : State} (hb : s.busy = true) (h : decodeD0 s = .next t) : t.withinCapacity := by
  obtain ⟨_, rfl⟩ | ⟨_, rfl⟩ := decodeD0_next h
  · exact ⟨Nat.zero_le _, fun _ => Nat.zero_le _⟩
  · exact State.withinCapacity_of_busy (Nat.zero_le _) hb

theorem decodeD1_withinCapacity {s t : State} (hb : s.busy = true) (hcnt : s.cnt.toNat < s.len.toNat)
    (h : decodeD1 s = .next t) : t.withinCapacity := by
  obtain ⟨_, rfl⟩ | ⟨_, _, rfl⟩ | ⟨c, _, _, _, hc⟩ := decodeD1_next h
  · exact State.withinCapacity_of_busy hcnt.le hb
  · exact State.withinCapacity_of_busy (by simpa using hcnt.le) (by simpa using hb)
  · have hcnt' : (s.takeChar.drive c).cnt.toNat < (s.takeChar.drive c).len.toNat := by simpa using hcnt
    have hb' : (s.takeChar.drive c).busy = true := by simpa using hb
    obtain ⟨_, _, _, rfl⟩ | ⟨_, _, _, rfl⟩ | ⟨_, _, _, rfl⟩ | ⟨_, _, _, _, rfl⟩ | ⟨_, _, rfl⟩ := hc
    · refine ⟨hcnt'.le, fun _ => ?_⟩
      simpa [zext16_toNat] using hcnt.le
    · exact State.withinCapacity_of_busy hcnt'.le hb'
    · exact State.withinCapacity_of_busy (s := (s.takeChar.drive c).setMode .escaped) hcnt'.le hb'
    · exact State.withinCapacity_appended hcnt' hb' c
    · exact State.withinCapacity_appended (s := (s.takeChar.drive c).setMode .normal) hcnt' hb' _

/-- Settles O14: the count by `State.withinCapacity`, the bytes by the frame, since `CNT` is below `LEN` at D1. -/
theorem decodeStaysWithinCapacity : Obligations.DecodeStaysWithinCapacity := by
  intro s t off h hs he
  have hb : s.busy = true := h.busy_iff.mpr (by obtain hs | hs := hs <;> simp [hs])
  obtain hs | hs := hs
  · rw [exec_decode_labelled hs off rfl] at he
    obtain ⟨hk, hbuf⟩ := decodeD0_receives he
    obtain ⟨hcnt, hres⟩ := decodeD0_withinCapacity hb he
    rw [hk.len] at hcnt hres
    exact ⟨hcnt, hres, fun a _ => by rw [hbuf]⟩
  · have hlt := h.cnt_below_len hs
    rw [exec_decode_labelled hs off rfl] at he
    have hk := decodeD1_receives he
    obtain ⟨hcnt, hres⟩ := decodeD1_withinCapacity hb hlt he
    rw [hk.len] at hcnt hres
    exact ⟨hcnt, hres, fun a ha => hk.other a (by omega)⟩

end Sys2Proof.Machine
end

section
/-! ## Who touches the operands, the transport and `BUF` (R57, R61 to R65) -/

namespace Sys2Proof.Machine

/-! ### The operands -/

theorem State.goesOnOrCompletes.operands {s t : State} (h : s.goesOnOrCompletes t) :
    t.op = s.op ∧ t.len = s.len ∧ t.off = s.off := by
  obtain hk | ⟨u, v, hk, rfl⟩ := h <;> exact ⟨hk.op, hk.len, hk.off⟩

theorem execGo_not_busy {s t : State} (h : execGo s = .next t) : s.busy = false := (execGo_next.mp h).1

/-- While `BUSY` the host sees `STATUS` and reaches no register (R233). -/
theorem hostAccess_operands_busy {a : HostAccess} {s t : State} (hb : s.busy = true) (h : hostAccess a s = .next t) :
    t.op = s.op ∧ t.len = s.len ∧ t.off = s.off := by
  obtain ⟨v, rfl⟩ | ⟨v, rfl⟩ | ⟨hb', _⟩ := hostAccess_next h
  · exact ⟨rfl, rfl, rfl⟩
  · exact ⟨rfl, rfl, rfl⟩
  · exact absurd (hb.symm.trans hb') (by decide)

/-- Settles O52: a running block leaves its operands alone, and `BUSY` keeps the host and `GO` out. -/
theorem operandsStableWhileBusy : Obligations.OperandsStableWhileBusy := by
  intro s t hb h hreset
  have hcause := s.nextMove_cause
  obtain ⟨_, ⟨_, _, rfl⟩ | ⟨hs, _, he⟩ | ⟨_, hg⟩ | ⟨a, _, _, ha⟩ | ⟨c, _, rfl⟩ | ⟨hm, _⟩ | ⟨_, rfl⟩⟩ := step_next h
  · exact ⟨rfl, rfl, rfl⟩
  · exact (exec_command_goesOnOrCompletes (u := s.takeInput) hs he).operands
  · exact absurd (hb.symm.trans (execGo_not_busy (s := s.takeInput) hg)) (by decide)
  · exact hostAccess_operands_busy (s := s.takeInput) hb ha
  · exact ⟨rfl, rfl, rfl⟩
  · rw [hm] at hcause
    obtain ⟨rest, hi⟩ := hcause
    exact absurd hi (hreset rest)
  · exact ⟨rfl, rfl, rfl⟩

/-! ### The transport -/

/-- In both states the transport holds the same characters and the block has sent the same. -/
def State.sameTransport (s t : State) : Prop := t.rxs = s.rxs ∧ t.txlog = s.txlog

theorem State.appended_rxs (s : State) (v : Byte) : (s.appended v).rxs = s.rxs := by
  obtain ⟨_, ht⟩ | ⟨_, ht⟩ := s.appended_cases v <;> rw [ht]; rfl

/-- D1 leaves the receive stream alone or takes its oldest character (R61). -/
theorem decodeD1_rxs {s t : State} (h : decodeD1 s = .next t) : t.rxs = s.rxs ∨ ∃ c, s.rxs = c :: t.rxs := by
  obtain ⟨_, rfl⟩ | ⟨_, _, rfl⟩ | ⟨c, rest, hr, _, hc⟩ := decodeD1_next h
  · exact .inl rfl
  · exact .inl s.spendDraw_rxs
  · have htake : (s.takeChar.drive c).rxs = rest := by simp [hr]
    refine .inr ⟨c, ?_⟩
    rw [hr]
    obtain ⟨_, _, _, rfl⟩ | ⟨_, _, _, rfl⟩ | ⟨_, _, _, rfl⟩ | ⟨_, _, _, _, rfl⟩ | ⟨_, _, rfl⟩ := hc
    · exact congrArg (c :: ·) htake.symm
    · exact congrArg (c :: ·) htake.symm
    · exact congrArg (c :: ·) htake.symm
    · rw [State.appended_rxs, htake]
    · rw [State.appended_rxs, State.setMode_rxs, htake]

/-- What the step of a running command does to the transport: nothing, or ENCODE sends a character, or D1 takes one
(R61, R62). -/
theorem exec_command_transport {s t u : State} (hs : u.seq ≠ .idle) (h : exec s.command u = .next t) :
    u.sameTransport t ∨
    (s.op = 1 ∧ (u.seq = .e0 ∨ u.seq = .e1 ∨ u.seq = .e2 ∨ u.seq = .e3) ∧ t.rxs = u.rxs ∧
      ∃ c, t.txlog = u.txlog ++ [c]) ∨
    (s.op = 0 ∧ u.seq = .d1 ∧ t.txlog = u.txlog ∧ ∃ c, u.rxs = c :: t.rxs) := by
  obtain ⟨hop, he⟩ | ⟨hop, he⟩ | ⟨_, he⟩ | ⟨_, he⟩ | ⟨_, he⟩ := exec_command s u <;> rw [he] at h
  · have hk := execDecode_receives hs h
    obtain ⟨hi, _⟩ | ⟨_, _, h⟩ | ⟨hq, _, h⟩ := execDecode_next h
    · exact absurd hi hs
    · obtain ⟨_, rfl⟩ | ⟨_, rfl⟩ := decodeD0_next h <;> exact .inl ⟨rfl, rfl⟩
    · obtain hr | hr := decodeD1_rxs h
      · exact .inl ⟨hr, hk.txlog⟩
      · exact .inr (.inr ⟨hop, hq, hk.txlog, hr⟩)
  · have hk := execEncode_sends hs h
    refine .inr (.inl ⟨hop, ?_, hk.rxs, hk.sent⟩)
    obtain ⟨hi, _⟩ | ⟨hq, _⟩ | ⟨hq, _⟩ | ⟨hq, _⟩ | ⟨hq, _⟩ := execEncode_next h
    · exact absurd hi hs
    · exact .inl hq
    · exact .inr (.inl hq)
    · exact .inr (.inr (.inl hq))
    · exact .inr (.inr (.inr hq))
  · obtain ⟨hk, _⟩ := execVerify_computesCrc hs h
    exact .inl ⟨hk.rxs, hk.txlog⟩
  · obtain ⟨hk, _⟩ := execAppend_computesCrc hs h
    exact .inl ⟨hk.rxs, hk.txlog⟩
  · exact absurd h execReserved_not_next

theorem execGo_sameTransport {s t : State} (h : execGo s = .next t) : s.sameTransport t := by
  obtain ⟨_, q, _, rfl⟩ := execGo_next.mp h
  split <;> exact ⟨rfl, rfl⟩

/-- The host has no access to the transport (R63). -/
theorem hostAccess_sameTransport {a : HostAccess} {s t : State} (h : hostAccess a s = .next t) :
    s.sameTransport t := by
  obtain ⟨v, rfl⟩ | ⟨v, rfl⟩ | ⟨_, ⟨v, n, rfl⟩ | ⟨v, n, rfl⟩ | ⟨v, n, rfl⟩ | ⟨i, v, _, _, rfl⟩ | hg⟩ := hostAccess_next h
  · exact ⟨rfl, rfl⟩
  · exact ⟨rfl, rfl⟩
  · exact ⟨rfl, rfl⟩
  · exact ⟨rfl, rfl⟩
  · exact ⟨rfl, rfl⟩
  · split <;> exact ⟨rfl, rfl⟩
  · exact execGo_sameTransport hg

/-- Only the block's own step and an arrival touch the transport. -/
theorem step_transport {s t : State} (h : step s = .next t) :
    s.sameTransport t ∨
    (∃ c rest, s.inputs = .arrive c :: rest ∧ t = s.takeInput.arrive c) ∨
    (s.seq ≠ .idle ∧ exec s.command s.takeInput = .next t) := by
  have hcause := s.nextMove_cause
  obtain ⟨_, ⟨_, _, rfl⟩ | ⟨hs, _, he⟩ | ⟨_, hg⟩ | ⟨a, _, _, ha⟩ | ⟨c, hm, ht⟩ | ⟨_, rfl⟩ | ⟨_, rfl⟩⟩ := step_next h
  · exact .inl ⟨rfl, rfl⟩
  · exact .inr (.inr ⟨hs, he⟩)
  · exact .inl (execGo_sameTransport (s := s.takeInput) hg)
  · exact .inl (hostAccess_sameTransport (s := s.takeInput) ha)
  · rw [hm] at hcause
    obtain ⟨rest, hi⟩ := hcause
    exact .inr (.inl ⟨c, rest, hi, ht⟩)
  · exact .inl ⟨s.takeInput.assertReset_rxs, s.takeInput.assertReset_txlog⟩
  · exact .inl ⟨rfl, rfl⟩

/-- Settles O54: of the moves that touch the transport (`step_transport`) only ENCODE's sends. -/
theorem onlyEncodeSends : Obligations.OnlyEncodeSends := by
  intro s t h
  obtain ⟨_, hsent⟩ | ⟨c, rest, _, rfl⟩ | ⟨hs, he⟩ := step_transport h
  · exact .inl hsent
  · exact .inl rfl
  · obtain ⟨_, hsent⟩ | ⟨hop, hq, _, c, hsent⟩ | ⟨_, _, hsent, _⟩ := exec_command_transport (u := s.takeInput) hs he
    · exact .inl hsent
    · exact .inr ⟨c, hsent, hop, hq⟩
    · exact .inl hsent

/-- Settles O55: of the moves that touch the transport (`step_transport`) D1 takes, and an arrival adds. -/
theorem onlyDecodeTakesCharacters : Obligations.OnlyDecodeTakesCharacters := by
  intro s t h
  obtain ⟨hheld, _⟩ | ⟨c, rest, hi, rfl⟩ | ⟨hs, he⟩ := step_transport h
  · exact .inl hheld
  · exact .inr (.inr ⟨c, rest, hi, rfl⟩)
  · obtain ⟨hheld, _⟩ | ⟨_, _, hheld, _⟩ | ⟨hop, hq, _, c, hheld⟩ := exec_command_transport (u := s.takeInput) hs he
    · exact .inl hheld
    · exact .inl hheld
    · exact .inr (.inl ⟨c, hheld, hop, hq⟩)

/-! ### `BUF` -/

theorem State.command_ne_go (s : State) : s.command ≠ .go := by
  unfold State.command decodeCommand
  split <;> simp

/-- A block that runs its command has nothing pending from outside. -/
theorem State.blockTurn_of_run {s : State} (h : s.nextMove = .run s.command) : s.blockTurn := by
  obtain ⟨hi, _⟩ | ⟨v, rest, _, hm⟩ | ⟨a, rest, _, _, hm⟩ | ⟨c, rest, _, hm⟩ | ⟨rest, _, hm⟩ | ⟨rest, _, hm⟩ :=
    s.nextMove_cases
  · exact hi
  · rw [hm] at h
    exact absurd (Move.run.inj h).symm s.command_ne_go
  all_goals rw [hm] at h; cases h

/-- ENCODE changes no byte (R165). -/
theorem exec_command_buf_of_encode {s t u : State} (hop : s.op = 1) (hs : u.seq ≠ .idle)
    (h : exec s.command u = .next t) : t.buf = u.buf := by
  have hcmd : s.command = .encode s.len s.off := by rw [State.command, hop]; rfl
  rw [hcmd] at h
  exact (execEncode_sends (off := s.off) hs h).buf

theorem execGo_buf {s t : State} (h : execGo s = .next t) : t.buf = s.buf := by
  obtain ⟨_, q, _, rfl⟩ := execGo_next.mp h
  split <;> rfl

/-- The host changes the byte it writes, while the block is idle (R57). -/
theorem hostAccess_buf {a : HostAccess} {s t : State} (h : hostAccess a s = .next t) :
    t.buf = s.buf ∨
    (s.busy = false ∧ ∃ i v, a = .writeBuf i v ∧ ∀ j, j ≠ i.toNat → t.buf.get j = s.buf.get j) := by
  obtain ⟨v, rfl⟩ | ⟨v, rfl⟩ | ⟨hb, ⟨v, n, rfl⟩ | ⟨v, n, rfl⟩ | ⟨v, n, rfl⟩ | ⟨i, v, ha, _, rfl⟩ | hg⟩ := hostAccess_next h
  · exact .inl rfl
  · exact .inl rfl
  · exact .inl rfl
  · exact .inl rfl
  · exact .inl rfl
  · split
    · exact .inl rfl
    · exact .inr ⟨hb, i, v, ha, fun j hj => Memory.get_set_other _ _ hj⟩
  · exact .inl (execGo_buf hg)

/-- Settles O56: a byte that changed leaves no move possible but the block's, a host write and the assertion of reset. -/
theorem bufferOwnership : Obligations.BufferOwnership := by
  intro s t a h he hne
  have hcause := s.nextMove_cause
  have hbuf : t.buf ≠ s.buf := fun hb => hne (by rw [hb])
  obtain ⟨_, ⟨_, _, rfl⟩ | ⟨hs, hm, he⟩ | ⟨_, hg⟩ | ⟨acc, hm, _, ha⟩ | ⟨c, _, rfl⟩ | ⟨hm, _⟩ | ⟨_, rfl⟩⟩ := step_next he
  · exact absurd rfl hbuf
  · refine .inl ⟨h.busy_iff.mpr hs, fun hop => ?_, State.blockTurn_of_run hm⟩
    exact hbuf (exec_command_buf_of_encode (u := s.takeInput) hop hs he)
  · exact absurd (execGo_buf hg) hbuf
  · rw [hm] at hcause
    obtain ⟨rest, hi⟩ := hcause
    obtain hb | ⟨hb, i, v, rfl, hother⟩ := hostAccess_buf ha
    · exact absurd hb hbuf
    · exact .inr (.inl ⟨hb, i, v, rest, hi, by_contra fun hai => hne (hother a hai)⟩)
  · exact absurd rfl hbuf
  · rw [hm] at hcause
    exact .inr (.inr hcause)
  · exact absurd rfl hbuf

end Sys2Proof.Machine
end

section
/-! ## A command issued at IDLE (30_encoding R93; logs 14 and 26) -/

namespace Sys2Proof.Machine

theorem State.issue_released {s : State} (hb : s.busy = false) (hr : s.resetHeld = false) (op : BitVec 3) (len : Byte)
    (off : Option Byte) (q : Seq) :
    s.issue op len off q = .next (({ s with op := op, len := len, off := off.getD s.off } : State).start q) := by
  simp [State.issue, hb, hr]

/-- While reset is asserted nothing starts, and the registers written hold some value (R280). -/
theorem State.issue_held {s : State} (hb : s.busy = false) (hr : s.resetHeld = true) (op : BitVec 3) (len : Byte)
    (off : Option Byte) (q : Seq) : s.issue op len off q = .next (s.issueInReset off) := by
  simp [State.issue, hb, hr]

section
variable {s : State} (hs : s.seq = .idle) (len off : Byte)
include hs

/-! At IDLE a command is issued. -/

theorem exec_decode_idle : exec (.decode len off) s = s.issue 0 len none .d0 := by
  simp only [exec, execDecode, hs]

theorem exec_encode_idle : exec (.encode len off) s = s.issue 1 len none .e0 := by
  simp only [exec, execEncode, hs]

theorem exec_verify_idle : exec (.verify len off) s = s.issue 2 len (some off) .v0 := by
  simp only [exec, execVerify, hs]

theorem exec_append_idle : exec (.append len off) s = s.issue 3 len none .a0 := by
  simp only [exec, execAppend, hs]

end

section
variable {s : State} (hs : s.seq ≠ .idle) (len off : Byte)
include hs

/-! During another command a command is refused (R234). -/

theorem exec_decode_refused (hc : s.seq.opCode ≠ some 0) : exec (.decode len off) s = .refused .hostWhileBusy := by
  unfold exec execDecode
  cases hq : s.seq with
  | idle => exact absurd hq hs
  | d0 | d1 => rw [hq] at hc; exact absurd rfl hc
  | _ => rfl

theorem exec_encode_refused (hc : s.seq.opCode ≠ some 1) : exec (.encode len off) s = .refused .hostWhileBusy := by
  unfold exec execEncode
  cases hq : s.seq with
  | idle => exact absurd hq hs
  | e0 | e1 | e2 | e3 => rw [hq] at hc; exact absurd rfl hc
  | _ => rfl

theorem exec_verify_refused (hc : s.seq.opCode ≠ some 2) : exec (.verify len off) s = .refused .hostWhileBusy := by
  unfold exec execVerify
  cases hq : s.seq with
  | idle => exact absurd hq hs
  | v0 | v1 | v2 | v3 | v4 => rw [hq] at hc; exact absurd rfl hc
  | _ => rfl

theorem exec_append_refused (hc : s.seq.opCode ≠ some 3) : exec (.append len off) s = .refused .hostWhileBusy := by
  unfold exec execAppend
  cases hq : s.seq with
  | idle => exact absurd hq hs
  | a0 | a1 | a2 => rw [hq] at hc; exact absurd rfl hc
  | _ => rfl

end

/-- Settles O43: at IDLE each command is issued, and at a step label of another operation it is refused. -/
theorem commandsIssuedFromIdle : Obligations.CommandsIssuedFromIdle := by
  intro s len off
  refine ⟨fun hs hb hr => ?_, fun hs hb hr => ?_, fun hs => ?_⟩
  · exact ⟨(exec_decode_idle hs len off).trans (State.issue_released hb hr _ _ _ _),
      (exec_encode_idle hs len off).trans (State.issue_released hb hr _ _ _ _),
      (exec_verify_idle hs len off).trans (State.issue_released hb hr _ _ _ _),
      (exec_append_idle hs len off).trans (State.issue_released hb hr _ _ _ _)⟩
  · refine ⟨fun i hi => ?_, _, _, _, _, (exec_verify_idle hs len off).trans (State.issue_held hb hr _ _ _ _)⟩
    obtain rfl | rfl | rfl := hi
    · exact ⟨_, _, _, (exec_decode_idle hs len off).trans (State.issue_held hb hr _ _ _ _)⟩
    · exact ⟨_, _, _, (exec_encode_idle hs len off).trans (State.issue_held hb hr _ _ _ _)⟩
    · exact ⟨_, _, _, (exec_append_idle hs len off).trans (State.issue_held hb hr _ _ _ _)⟩
  · exact ⟨exec_decode_refused hs len off, exec_encode_refused hs len off, exec_verify_refused hs len off,
      exec_append_refused hs len off⟩

end Sys2Proof.Machine
end

section
/-! ## Whole runs of APPEND and VERIFY (44_crc_verify R190, 45_crc_append R210) -/

namespace Sys2Proof.Machine

/-! ### The CRC field in `BUF` -/

/-- `BUF` with the two bytes of a field at `a` written, the one at the lower index first (R53). -/
def Memory.setField (m : Memory) (a : Nat) (b : Byte × Byte) : Memory := (m.set a b.1).set (a + 1) b.2

@[simp] theorem Memory.get_setField_lo (m : Memory) (a : Nat) (b : Byte × Byte) : (m.setField a b).get a = some b.1 := by
  simp [Memory.setField, Memory.get_set]

@[simp] theorem Memory.get_setField_hi (m : Memory) (a : Nat) (b : Byte × Byte) :
    (m.setField a b).get (a + 1) = some b.2 := by
  simp [Memory.setField]

theorem Memory.get_setField_other (m : Memory) {a j : Nat} (b : Byte × Byte) (h : j ≠ a) (h' : j ≠ a + 1) :
    (m.setField a b).get j = m.get j :=
  (Memory.get_set_other _ _ h').trans (Memory.get_set_other _ _ h)

/-- A field written behind the data a buffer holds leaves the data and the field. -/
theorem State.holds.setField {s t : State} {data : List Byte} {b : Byte × Byte} (h : s.holds 0 data)
    (ht : t.buf = s.buf.setField data.length b) : t.holds 0 (data ++ [b.1, b.2]) := by
  intro i hi
  rw [ht, Nat.zero_add]
  obtain hlt | rfl | rfl : i < data.length ∨ i = data.length ∨ i = data.length + 1 := by simp at hi; omega
  · rw [Memory.get_setField_other _ _ (by omega) (by omega), List.getElem_append_left hlt, ← h i hlt, Nat.zero_add]
  · simp
  · simp

/-- The data before a field stays as the field is written. -/
theorem State.holds.before_setField {s t : State} {data : List Byte} {b : Byte × Byte} (h : s.holds 0 data)
    (ht : t.buf = s.buf.setField data.length b) : t.holds 0 data := by
  intro i hi
  rw [ht, Memory.get_setField_other _ _ (by omega) (by omega)]
  exact h i hi

/-- A CRC stored as a field is what a read of that field gives. -/
theorem State.memRead2_of_setField {t : State} {m : Memory} {a : Nat} (v : Word) (ha : a + 2 ≤ t.par.bufSize.val)
    (ht : t.buf = m.setField a (crcBytes t.par.order v)) : t.memRead2 a = .ok v :=
  State.memRead2_ok.mpr ⟨ha, _, _, by rw [ht]; exact m.get_setField_lo _ _, by rw [ht]; exact m.get_setField_hi _ _,
    (crcOfBytes_crcBytes _ _).symm⟩

/-! ### Steps of the machine while VERIFY or APPEND runs and nothing is pending -/

section
variable {s : State} (hp : s.par.ok = true) (hi : s.inputs = [])
include hp hi

theorem step_verify (hop : s.op = 2) (hs : s.seq ≠ .idle) : step s = exec (.verify s.len s.off) s := by
  rw [step_command hp hi hs, State.command, hop]; rfl

theorem step_v0 (hop : s.op = 2) (hs : s.seq = .v0) (hpre : s.off.toNat + 2 ≤ s.len.toNat) :
    step s = .next { s with seq := .v1 } := by
  rw [step_verify hp hi hop (by simp [hs]), exec_verify_labelled hs rfl]
  exact if_pos (verifyPrecondition_iff.mpr hpre)

theorem step_v1 {v : Word} (hop : s.op = 2) (hs : s.seq = .v1) (hfield : s.memRead2 s.off.toNat = .ok v) :
    step s = .next { s with rcrc := v, seq := .v2 } := by
  rw [step_verify hp hi hop (by simp [hs]), exec_verify_labelled hs rfl]
  exact orFault_of_ok hfield _

theorem step_v2 (hop : s.op = 2) (hs : s.seq = .v2) (hfit : s.off.toNat + 2 ≤ s.par.bufSize.val) :
    step s = .next { s with buf := s.buf.setField s.off.toNat (0, 0), crc := 0, idx := 0, seq := .v3 } := by
  obtain ⟨_, hv2, _⟩ := verifySteps s
  exact (step_verify hp hi hop (by simp [hs])).trans (hv2 hs hfit)

theorem step_v4 (hop : s.op = 2) (hs : s.seq = .v4) :
    step s = .next (s.complete (if s.crc = s.rcrc then s.crc else 0)) := by
  rw [step_verify hp hi hop (by simp [hs]), exec_verify_labelled hs rfl]; rfl

theorem step_append (hop : s.op = 3) (hs : s.seq ≠ .idle) : step s = exec (.append s.len s.off) s := by
  rw [step_command hp hi hs, State.command, hop]; rfl

theorem step_a0 (hop : s.op = 3) (hs : s.seq = .a0) (hfit : s.len.toNat + 2 ≤ s.par.bufSize.val) :
    step s = .next { s with buf := s.buf.setField s.len.toNat (0, 0), crc := 0, idx := 0, seq := .a1 } := by
  obtain ⟨ha0, _⟩ := appendSteps s s.off
  exact (step_append hp hi hop (by simp [hs])).trans (ha0 hs hfit)

theorem step_a2 (hop : s.op = 3) (hs : s.seq = .a2) (hfit : s.len.toNat + 2 ≤ s.par.bufSize.val) :
    step s = .next (({ s with buf := s.buf.setField s.len.toNat (crcBytes s.par.order s.crc) } : State).complete
      (appendTotal s.len)) := by
  rw [appendTotal_eq]
  obtain ⟨_, _, ha2⟩ := appendSteps s s.off
  exact (step_append hp hi hop (by simp [hs])).trans (ha2 hs hfit)

end

/-! ### The loop that folds the buffer -/

/-- The operation `op` with operand `len` folds `BUF[IDX]` at the label `q` until `IDX` is `total`, then goes to
`done`: V3 of R190, A1 of R210. -/
inductive FoldLoop (op : BitVec 3) (len : Byte) : Seq → Seq → Nat → Prop
  | verify : op = 2 → FoldLoop op len .v3 .v4 len.toNat
  | append : op = 3 → FoldLoop op len .a1 .a2 (len.toNat + 2)

theorem step_foldLoop {s : State} {q done : Seq} {total : Nat} {b : Byte} (hloop : FoldLoop s.op s.len q done total)
    (hp : s.par.ok = true) (hi : s.inputs = []) (hs : s.seq = q) (hidx : s.idx.toNat + 1 ≤ s.par.bufSize.val)
    (hb : s.buf.get s.idx.toNat = some b) :
    step s = .next { s with
      crc := crc16Update s.par.crcFn s.crc b, idx := s.idx + 1
      seq := if (s.idx + 1).toNat = total then done else q } := by
  cases hloop with
  | verify hop =>
    obtain ⟨_, _, hv3, _⟩ := verifySteps s
    exact (step_verify hp hi hop (by simp [hs])).trans (hv3 b hs hidx hb)
  | append hop =>
    obtain ⟨_, ha1, _⟩ := appendSteps s s.off
    exact (step_append hp hi hop (by simp [hs])).trans (ha1 b hs hidx hb)

/-- From the `IDX`-th byte on the loop folds one byte a step, and ends with the whole buffer folded. -/
theorem run_foldLoop {q done : Seq} {total : Nat} (rest : List Byte) {s : State} (hne : rest ≠ [])
    (hloop : FoldLoop s.op s.len q done total) (hp : s.par.ok = true) (hi : s.inputs = []) (hs : s.seq = q)
    (htotal : s.idx.toNat + rest.length = total) (hsize : total ≤ s.par.bufSize.val) (hrest : s.holds s.idx.toNat rest) :
    ∃ i, run rest.length s =
      .next { s with crc := rest.foldl (crc16Update s.par.crcFn) s.crc, idx := i, seq := done } := by
  induction rest generalizing s with
  | nil => exact absurd rfl hne
  | cons b rest ih =>
    have hsmall := s.par.bufSize.isLt
    rw [List.length_cons] at htotal
    have hnext : (s.idx + 1).toNat = s.idx.toNat + 1 := by bv_omega
    have hb : s.buf.get s.idx.toNat = some b := hrest 0 (by simp)
    have hstep := step_foldLoop hloop hp hi hs (by omega) hb
    rw [hnext] at hstep
    rw [List.length_cons, run_succ_next hstep]
    by_cases hlast : rest = []
    · subst hlast
      rw [if_pos (by simpa using htotal)]
      exact ⟨_, rfl⟩
    · have hlen := List.length_pos_of_ne_nil hlast
      rw [if_neg (by omega)]
      refine ih hlast hloop hp hi rfl (by simp only [hnext]; omega) hsize fun i hi => ?_
      have hget := hrest (i + 1) (by simpa using hi)
      simp only [hnext]
      rw [Nat.add_right_comm, Nat.add_assoc]
      exact hget

/-! ### The operations -/

/-- What APPEND of `data` leaves: the CRC of the data and two zero bytes in the field at `LEN`, cleared first, and in
`CRC`; `IDX` at some value `i` (R210, R212, R213). -/
def State.afterAppend (s : State) (data : List Byte) (i : BitVec 9) : State :=
  ({ s with
    buf := (s.buf.setField s.len.toNat (0, 0)).setField s.len.toNat
      (crcBytes s.par.order (crc16 s.par.crcFn (data ++ [0, 0])))
    crc := crc16 s.par.crcFn (data ++ [0, 0])
    idx := i } : State).complete (appendTotal s.len)

/-- APPEND of the data `BUF` holds takes `LEN + 4` steps (R210). -/
theorem run_appendOperation {s : State} {data : List Byte} (hp : s.par.ok = true) (hs : s.seq = .a0) (hop : s.op = 3)
    (hi : s.inputs = []) (hlen : data.length = s.len.toNat) (hsize : s.len.toNat + 2 ≤ s.par.bufSize.val)
    (hdata : s.holds 0 data) :
    ∃ i, run (data.length + 4) s = .next (s.afterAppend data i) := by
  have h0 := step_a0 hp hi hop hs hsize
  obtain ⟨i, h1⟩ := run_foldLoop (data ++ [0, 0])
    (s := { s with buf := s.buf.setField s.len.toNat (0, 0), crc := 0, idx := 0, seq := .a1 }) (by simp) (.append hop) hp
    hi rfl (by simp [hlen]) hsize (hdata.setField (b := (0, 0)) (by rw [hlen]))
  have h2 := step_a2 (s := { s with
    buf := s.buf.setField s.len.toNat (0, 0), crc := crc16 s.par.crcFn (data ++ [0, 0]), idx := i, seq := .a2 })
    hp hi hop rfl hsize
  have hcount : data.length + 4 = (data ++ [0, 0]).length + 1 + 1 := by simp
  rw [hcount]
  exact ⟨i, (run_succ_next h0).trans ((run_add h1).trans (run_succ_next h2))⟩

/-- VERIFY whose precondition holds, of a buffer that holds `bytes` once its field is zeroed, takes `LEN + 4` steps and
completes with the CRC of `bytes` if the field held it (R190, R192, R193). -/
theorem run_verifyOperation {s : State} {bytes : List Byte} {v : Word} (hp : s.par.ok = true) (hs : s.seq = .v0)
    (hop : s.op = 2) (hi : s.inputs = []) (hpre : s.off.toNat + 2 ≤ s.len.toNat)
    (hsize : s.len.toNat ≤ s.par.bufSize.val) (hlen : bytes.length = s.len.toNat)
    (hfield : s.memRead2 s.off.toNat = .ok v)
    (hbytes : ({ s with buf := s.buf.setField s.off.toNat (0, 0) } : State).holds 0 bytes) :
    ∃ i, run (s.len.toNat + 4) s = .next (({ s with
      rcrc := v, buf := s.buf.setField s.off.toNat (0, 0), crc := crc16 s.par.crcFn bytes, idx := i } : State).complete
        (if crc16 s.par.crcFn bytes = v then crc16 s.par.crcFn bytes else 0)) := by
  have hne : bytes ≠ [] := List.ne_nil_of_length_pos (by omega)
  have h0 := step_v0 hp hi hop hs hpre
  have h1 := step_v1 (s := { s with seq := .v1 }) hp hi hop rfl hfield
  have h2 := step_v2 (s := { s with rcrc := v, seq := .v2 }) hp hi hop rfl (hpre.trans hsize)
  obtain ⟨i, h3⟩ := run_foldLoop bytes
    (s := { s with rcrc := v, buf := s.buf.setField s.off.toNat (0, 0), crc := 0, idx := 0, seq := .v3 })
    hne (.verify hop) hp hi rfl (by simp [hlen]) hsize hbytes
  have h4 := step_v4 (s := { s with
    rcrc := v, buf := s.buf.setField s.off.toNat (0, 0), crc := crc16 s.par.crcFn bytes, idx := i, seq := .v4 })
    hp hi hop rfl
  have hcount : s.len.toNat + 4 = bytes.length + 1 + 1 + 1 + 1 := by rw [hlen]
  rw [hcount]
  exact ⟨i, (run_succ_next h0).trans ((run_succ_next h1).trans ((run_succ_next h2).trans
    ((run_add h3).trans (run_succ_next h4))))⟩

/-- VERIFY issued at IDLE, where the field behind the data holds their CRC, completes with that CRC. -/
theorem verify_issued_of_stored_crc {t : State} {data : List Byte} {n : Byte} (hp : t.par.ok = true)
    (hi : t.inputs = []) (hs : t.seq = .idle) (hb : t.busy = false) (hr : t.resetHeld = false)
    (hlen : data.length = n.toNat) (hsize : n.toNat + 2 ≤ t.par.bufSize.val) (hdata : t.holds 0 data)
    (hfield : t.memRead2 n.toNat = .ok (crc16 t.par.crcFn (data ++ [0, 0]))) :
    ∃ u v, exec (.verify (n + 2) n) t = .next u ∧ run (data.length + 6) u = .next v ∧ v.busy = false ∧
      v.res = crc16 t.par.crcFn (data ++ [0, 0]) := by
  have hbuf := t.par.bufSize.isLt
  have htotal : (n + 2).toNat = n.toNat + 2 := by bv_omega
  have hissue := (exec_verify_idle hs (n + 2) n).trans (State.issue_released hb hr _ _ _ _)
  obtain ⟨i, hrun⟩ := run_verifyOperation (bytes := data ++ [0, 0])
    (s := ({ t with op := 2, len := n + 2, off := n } : State).start .v0) hp rfl rfl hi htotal.ge (htotal ▸ hsize)
    (by rw [List.length_append, hlen]; exact htotal.symm) hfield (hdata.setField (b := (0, 0)) (by rw [hlen]; rfl))
  have hcount : data.length + 6 = (n + 2).toNat + 4 := by omega
  rw [hcount]
  exact ⟨_, _, hissue, hrun, rfl, if_pos rfl⟩

/-- Settles O35: APPEND leaves the CRC in the field behind the data (`run_appendOperation`), where VERIFY finds it
(`verify_issued_of_stored_crc`). -/
theorem appendThenVerify : Obligations.AppendThenVerify := by
  intro s data hp hr hs hop hi hlen hsize hdata
  obtain ⟨i, happend⟩ := run_appendOperation hp hs hop hi hlen hsize hdata
  have hbuf : (s.afterAppend data i).buf = (s.buf.setField data.length (0, 0)).setField data.length
      (crcBytes s.par.order (crc16 s.par.crcFn (data ++ [0, 0]))) := by rw [hlen]; rfl
  have hzero : ({ s with buf := s.buf.setField data.length (0, 0) } : State).holds 0 data := hdata.before_setField rfl
  obtain ⟨u, v, hissue, hverify⟩ := verify_issued_of_stored_crc (t := s.afterAppend data i) hp hi rfl rfl hr hlen hsize
    (hzero.before_setField hbuf) (State.memRead2_of_setField _ hsize rfl)
  exact ⟨_, u, v, happend, hissue, hverify⟩

end Sys2Proof.Machine
end

section
/-! ## Codes and the instructions they stand for (30_encoding R81, R82, R87, R88, R90, R95) -/

namespace Sys2Proof

/-- R6, inequality by inequality. -/
theorem Params.ok_iff {p : Params} :
    p.ok = true ↔ p.endC ≠ p.escC ∧ p.escEnd ≠ p.endC ∧ p.escEsc ≠ p.endC ∧ p.escEnd ≠ p.escEsc := by
  simp [Params.ok, and_assoc]

/-! ### Command words -/

/-- A command word decodes to the command its fields hold. -/
theorem decode_commandWord (p : Params) (op : BitVec 3) (len off : Byte) :
    decode p .command [off, len, op.setWidth 8] = .ok (decodeCommand op len off) :=
  ({ Machine.State.reset with par := p, op := op, len := len, off := off } : Machine.State).decode_command

/-- The rows of R88 and R90: the four operations, and a code with bit 2 set. -/
theorem decodeCommand_cases (op : BitVec 3) (len off : Byte) :
    (op = 0 ∧ decodeCommand op len off = .decode len off) ∨ (op = 1 ∧ decodeCommand op len off = .encode len off) ∨
    (op = 2 ∧ decodeCommand op len off = .verify len off) ∨ (op = 3 ∧ decodeCommand op len off = .append len off) ∨
    (op.getLsbD 2 = true ∧ decodeCommand op len off = .reserved op len off) := by
  have hop : op = 0 ∨ op = 1 ∨ op = 2 ∨ op = 3 ∨ op = 4 ∨ op = 5 ∨ op = 6 ∨ op = 7 := by revert op; decide
  obtain rfl | rfl | rfl | rfl | rfl | rfl | rfl | rfl := hop <;> simp [decodeCommand]

theorem decodeCommand_of_reserved {op : BitVec 3} (h : op.getLsbD 2 = true) (len off : Byte) :
    decodeCommand op len off = .reserved op len off := by
  obtain ⟨rfl, _⟩ | ⟨rfl, _⟩ | ⟨rfl, _⟩ | ⟨rfl, _⟩ | ⟨_, he⟩ := decodeCommand_cases op len off
  case inr.inr.inr.inr => exact he
  all_goals exact absurd h (by decide)

theorem decodeCommand_wf_encode (p : Params) (op : BitVec 3) (len off : Byte) :
    (decodeCommand op len off).wf p = true ∧ encode p (decodeCommand op len off) = some (encodeCommand op len off) := by
  obtain ⟨rfl, he⟩ | ⟨rfl, he⟩ | ⟨rfl, he⟩ | ⟨rfl, he⟩ | ⟨hbit, he⟩ := decodeCommand_cases op len off <;> rw [he]
  case inr.inr.inr.inr => exact ⟨hbit, rfl⟩
  all_goals exact ⟨rfl, rfl⟩

/-! ### Characters and payload bytes -/

theorem decodeReceived_wf_encode (p : Params) (m : Mode) (c : Byte) :
    (decodeReceived p m c).wf p = true ∧ encode p (decodeReceived p m c) = some (.receive m, [c]) := by
  unfold decodeReceived
  cases m with
  | normal =>
    dsimp only
    split
    · subst c; exact ⟨rfl, rfl⟩
    · split
      · subst c; exact ⟨rfl, rfl⟩
      · exact ⟨by simp [Instr.wf, *], rfl⟩
  | escaped =>
    dsimp only
    split
    · subst c; exact ⟨rfl, rfl⟩
    · split
      · subst c; exact ⟨rfl, rfl⟩
      · exact ⟨by simp [Instr.wf, *], rfl⟩

theorem decodePayload_wf_encode (p : Params) (b : Byte) :
    (decodePayload p b).wf p = true ∧ encode p (decodePayload p b) = some (.transmit, [b]) := by
  unfold decodePayload
  split
  · subst b; exact ⟨rfl, rfl⟩
  · split
    · subst b; exact ⟨rfl, rfl⟩
    · exact ⟨by simp [Instr.wf, *], rfl⟩

/-- The top byte of a command word is its `OP`, zero-extended, if no bit above bit 18 is set (R87). -/
theorem setWidth_op_of_lt {top : Byte} (h : top.toNat < 8) : (top.setWidth 3).setWidth 8 = top := by
  bv_omega

/-- Settles O3, stream by stream. -/
theorem decodeThenEncode : Obligations.DecodeThenEncode := by
  intro p i st bytes hd
  unfold decode at hd
  split at hd
  · rename_i off len top
    split at hd <;> cases hd
    have henc := decodeCommand_wf_encode p (top.setWidth 3) len off
    rwa [encodeCommand, setWidth_op_of_lt ‹_›] at henc
  · cases hd; exact decodeReceived_wf_encode p _ _
  · cases hd; exact decodePayload_wf_encode p _
  · split at hd <;> cases hd
    subst_vars
    exact ⟨rfl, rfl⟩
  · cases hd

/-- Settles O2, row by row: the row a code names is the one whose tests it passes; R6 separates the two escape rows
of each stream. -/
theorem encodeThenDecode : Obligations.EncodeThenDecode := by
  intro p i st bytes hok hwf henc
  obtain ⟨hesc, -, -, hsub⟩ := Params.ok_iff.mp hok
  cases i with
  | decode len off => cases henc; exact decode_commandWord p 0 len off
  | encode len off => cases henc; exact decode_commandWord p 1 len off
  | verify len off => cases henc; exact decode_commandWord p 2 len off
  | append len off => cases henc; exact decode_commandWord p 3 len off
  | reserved op len off =>
    cases henc
    rw [decode_commandWord, decodeCommand_of_reserved hwf]
  | rxEnd => cases henc; simp [decode, decodeReceived]
  | rxEsc => cases henc; simp [decode, decodeReceived, hesc.symm]
  | rxData c =>
    cases henc
    simp only [Instr.wf, Bool.and_eq_true, bne_iff_ne] at hwf
    simp [decode, decodeReceived, hwf]
  | rxXlEnd => cases henc; simp [decode, decodeReceived]
  | rxXlEsc => cases henc; simp [decode, decodeReceived, hsub.symm]
  | rxXlOther c =>
    cases henc
    simp only [Instr.wf, Bool.and_eq_true, bne_iff_ne] at hwf
    simp [decode, decodeReceived, hwf]
  | txEscapeEnd => cases henc; simp [decode, decodePayload]
  | txEscapeEsc => cases henc; simp [decode, decodePayload, hesc.symm]
  | txData b =>
    cases henc
    simp only [Instr.wf, Bool.and_eq_true, bne_iff_ne] at hwf
    simp [decode, decodePayload, hwf]
  | go => cases henc; rfl
  | txDelimiter | crcclr | crcupd | classify | boundary | xlate => cases henc

/-- Settles O1: each word is decoded by evaluation. -/
theorem specWordsDecode : Obligations.SpecWordsDecode :=
  ⟨rfl, rfl, rfl, rfl, rfl, rfl, rfl, rfl, rfl, rfl, rfl, rfl, rfl, rfl, rfl⟩

/-! ### Frames -/

/-- A payload byte goes out as two characters if it is `END` or `ESC`, else as one (R83). -/
theorem length_wireOf (p : Params) (b : Byte) :
    (wireOf p b).length = 1 + if b == p.endC || b == p.escC then 1 else 0 := by
  unfold wireOf
  by_cases he : b = p.endC
  · simp [he]
  · by_cases hs : b = p.escC
    · rw [if_neg he, if_pos hs]; simp [hs]
    · simp [he, hs]

theorem length_flatMap_wireOf (p : Params) (payload : List Byte) :
    (payload.flatMap (wireOf p)).length = payload.length + Machine.escapedCount p payload := by
  induction payload with
  | nil => rfl
  | cons b rest ih =>
    rw [List.flatMap_cons, List.length_append, ih, length_wireOf, Machine.escapedCount, Machine.escapedCount,
      List.countP_cons, List.length_cons]
    omega

/-- `ESC` and the two substitutes are not `END`, under R6. -/
theorem endC_not_mem_wireOf {p : Params} (hok : p.ok = true) (b : Byte) : p.endC ∉ wireOf p b := by
  obtain ⟨hesc, hend, hsub, -⟩ := Params.ok_iff.mp hok
  unfold wireOf
  split_ifs with he hs
  · simp [hesc, hend.symm]
  · simp [hesc, hsub.symm]
  · exact fun hmem => he (List.mem_singleton.mp hmem).symm

/-- Settles O24: what stands between the delimiters is `wireOf` of each payload byte. -/
theorem frameHasEndOnlyAtItsEnds : Obligations.FrameHasEndOnlyAtItsEnds := by
  intro p payload hok
  refine ⟨payload.flatMap (wireOf p), rfl, fun hmem => ?_, ?_⟩
  · obtain ⟨b, _, hb⟩ := List.mem_flatMap.mp hmem
    exact endC_not_mem_wireOf hok b hb
  · simp only [wireFrame, List.length_append, List.length_cons, length_flatMap_wireOf]
    rfl

end Sys2Proof
end

section
/-! ## The rows of the wire (30_encoding R81, R82) -/

namespace Sys2Proof.Machine

/-- Settles O9, by `decodeD1_eq_exec_received`. -/
theorem decodeRunsReceivedRow : Obligations.DecodeRunsReceivedRow := fun _ off _ _ hs hr ha =>
  (exec_decode_labelled hs off rfl).trans (decodeD1_eq_exec_received hr ha)

/-- What an append leaves, field by field (R130, R132). -/
theorem State.appended_eq (s : State) (v : Byte) :
    s.appended v = { s with
      buf := s.buf.set s.cnt.toNat v
      cnt := s.cnt + 1
      res := if s.cnt + 1 = s.len then zext16 s.len else s.res
      busy := if s.cnt + 1 = s.len then false else s.busy
      seq := if s.cnt + 1 = s.len then .idle else s.seq } := by
  unfold State.appended
  by_cases h : s.cnt + 1 = s.len
  · simp only [if_pos h]; rfl
  · simp only [if_neg h]

/-- An append within the buffer, of a character just consumed, stores and counts its byte. -/
theorem State.appendByte_received {s : State} (h : s.cnt.toNat + 1 ≤ s.par.bufSize.val) (c v : Byte) (m : Mode) :
    ((s.takeChar.drive c).setMode m).appendByte v =
      .next { s.takeChar with
        det := detect s.par s.mode s.cnt c
        mode := m
        buf := s.buf.set s.cnt.toNat v
        cnt := s.cnt + 1
        res := if s.cnt + 1 = s.len then zext16 s.len else s.res
        busy := if s.cnt + 1 = s.len then false else s.busy
        seq := if s.cnt + 1 = s.len then .idle else s.seq } := by
  rw [State.appendByte_eq, if_pos (by simpa using h), State.appended_eq, State.takeChar_drive]
  simp [State.setMode]

/-- Settles O11: each of the four rows is the append of `State.appendByte_received`. -/
theorem receivedDataIsStored : Obligations.ReceivedDataIsStored := by
  intro s i c v m hcnt hi
  rw [← State.appendByte_received hcnt]
  obtain ⟨rfl, rfl, rfl⟩ | ⟨rfl, rfl, rfl, rfl⟩ | ⟨rfl, rfl, rfl, rfl⟩ | ⟨rfl, rfl, rfl⟩ := hi
  · rw [← s.takeChar_mode]; rfl
  · rfl
  · rfl
  · rfl

section
variable {s : State}

/-! What each transmit row does at the label where R160 uses it. -/

theorem exec_txDelimiter_e0 (hs : s.seq = .e0) : exec .txDelimiter s = encodeE0 s := by
  simp only [exec, execTxDelimiter, hs]

theorem exec_txDelimiter_e3 (hs : s.seq = .e3) : exec .txDelimiter s = encodeE3 s := by
  simp only [exec, execTxDelimiter, hs]

theorem exec_txEscapeEnd_e1 (hs : s.seq = .e1) : exec .txEscapeEnd s = .next (s.sendEscape s.par.escEnd) := by
  simp only [exec, execTxEscapeEnd, hs]

theorem exec_txEscapeEsc_e1 (hs : s.seq = .e1) : exec .txEscapeEsc s = .next (s.sendEscape s.par.escEsc) := by
  simp only [exec, execTxEscapeEsc, hs]

theorem exec_txEscape_e2 {i : Instr} (hi : i = .txEscapeEnd ∨ i = .txEscapeEsc) (hs : s.seq = .e2) :
    exec i s = encodeE2 s := by
  obtain rfl | rfl := hi
  · simp only [exec, execTxEscapeEnd, hs]
  · simp only [exec, execTxEscapeEsc, hs]

end

/-- Settles O18: a step of ENCODE is its labelled step, and so is the row at that label. -/
theorem encodeRunsPayloadRow : Obligations.EncodeRunsPayloadRow := by
  intro s off
  refine ⟨fun b hs hi hb => ?_, ?_, fun hs => ⟨?_, ?_⟩⟩
  · exact (exec_encode_labelled hs off rfl).trans (encodeE1_eq_exec_payload hs (State.memRead1_written hi hb))
  · rintro (hs | hs)
    · exact (exec_encode_labelled hs off rfl).trans (exec_txDelimiter_e0 hs).symm
    · exact (exec_encode_labelled hs off rfl).trans (exec_txDelimiter_e3 hs).symm
  · exact (exec_encode_labelled hs off rfl).trans (exec_txEscape_e2 (.inl rfl) hs).symm
  · exact (exec_encode_labelled hs off rfl).trans (exec_txEscape_e2 (.inr rfl) hs).symm

/-- Settles O20: each row is a step of the encoder, whose next state is written out. -/
theorem transmitRowsSend : Obligations.TransmitRowsSend := by
  intro s
  refine ⟨exec_txDelimiter_e0, exec_txDelimiter_e3, exec_txEscapeEnd_e1, exec_txEscapeEsc_e1,
    fun i hs hi => exec_txEscape_e2 hi hs, fun b hs => ?_⟩
  rw [← hs]; rfl

end Sys2Proof.Machine
end

section
/-! ## DECODE of a frame (41_decoder R130, R137, R138, 40_delimiter_detector R116) -/

namespace Sys2Proof.Machine

/-! ### What a DECODE has collected -/

/-- `t` is a state of the DECODE that `s` began once it has stored the bytes `data`, as far as they and the frame of
DECODE go (R130, R136, R139). -/
structure State.Collects (s : State) (data : List Byte) (t : State) : Prop where
  par : t.par = s.par
  op : t.op = s.op
  len : t.len = s.len
  off : t.off = s.off
  inputs : t.inputs = s.inputs
  txlog : t.txlog = s.txlog
  cnt : t.cnt.toNat = data.length
  stored : t.holds 0 data
  other : ∀ a, data.length ≤ a → t.buf.get a = s.buf.get a

/-- That DECODE at D1, in the mode `m`, with `rxs` still to be received. -/
structure State.Decoding (s : State) (data : List Byte) (m : Mode) (rxs : List Byte) (t : State) : Prop
    extends s.Collects data t where
  seq : t.seq = .d1
  mode : t.mode = m
  rxs : t.rxs = rxs
  room : data.length < s.len.toNat

/-- That DECODE completed with `data`, with `rxs` left in the receive stream (R131). -/
structure State.Decoded (s : State) (data rxs : List Byte) (t : State) : Prop extends s.Collects data t where
  seq : t.seq = .idle
  mode : t.mode = .normal
  rxs : t.rxs = rxs
  busy : t.busy = false
  res : t.res.toNat = data.length

/-- How that DECODE stands once a data byte is stored: complete if the byte fills the capacity, else at D1 (R130). -/
def State.AfterByte (s : State) (data rxs : List Byte) (t : State) : Prop :=
  (data.length = s.len.toNat ∧ s.Decoded data rxs t) ∨ s.Decoding data .normal rxs t

section
variable {s t : State} {data rest : List Byte} {m : Mode} {c : Byte}

theorem State.Decoding.spendDraw {rxs : List Byte} (h : s.Decoding data m rxs t) :
    s.Decoding data m rxs t.spendDraw where
  par := by simp [h.par]
  op := by simp [h.op]
  len := by simp [h.len]
  off := by simp [h.off]
  inputs := by simp [h.inputs]
  txlog := by simp [h.txlog]
  cnt := by simp [h.cnt]
  stored := fun i hi => by simpa using h.stored i hi
  other := by simpa using h.other
  seq := by simp [h.seq]
  mode := by simp [h.mode]
  rxs := by simp [h.rxs]
  room := h.room

theorem State.Decoding.takeChar_drive (h : s.Decoding data m (c :: rest) t) (b : Byte) :
    s.Decoding data m rest (t.takeChar.drive b) :=
  { h.spendDraw with rxs := by simp [h.rxs] }

theorem State.Decoding.setMode {rxs : List Byte} (h : s.Decoding data m rxs t) (m' : Mode) :
    s.Decoding data m' rxs (t.setMode m') :=
  { h with mode := rfl }

/-- A byte written behind those a buffer holds joins them. -/
theorem State.holds.concat {u : State} {b : Byte} (h : s.holds 0 data) (hu : u.buf = s.buf.set data.length b) :
    u.holds 0 (data ++ [b]) := by
  intro i hi
  rw [hu, Nat.zero_add]
  obtain hlt | rfl : i < data.length ∨ i = data.length := by simp at hi; omega
  · rw [Memory.get_set_other _ _ (by omega), List.getElem_append_left hlt, ← h i hlt, Nat.zero_add]
  · simp

/-- `append(b)` at D1 stores `b` behind the bytes collected, and completes if that fills the capacity. -/
theorem State.Decoding.appendByte (h : s.Decoding data .normal rest t) (hsize : s.len.toNat ≤ s.par.bufSize.val)
    (b : Byte) : ∃ u, t.appendByte b = .next u ∧ u.polls = t.polls ∧ s.AfterByte (data ++ [b]) rest u := by
  have hroom := h.room
  have hcnt := h.cnt
  have hlen := congrArg BitVec.toNat h.len
  have hfit : t.cnt.toNat + 1 ≤ t.par.bufSize.val := by rw [h.par]; omega
  have hnext : (t.cnt + 1).toNat = data.length + 1 := by bv_omega
  have hstored : s.Collects (data ++ [b]) { t with buf := t.buf.set t.cnt.toNat b, cnt := t.cnt + 1 } :=
    { h with
      cnt := by simpa using hnext
      stored := h.stored.concat (by rw [hcnt])
      other := fun a ha => by
        rw [List.length_append, List.length_singleton] at ha
        exact (Memory.get_set_other _ _ (by omega)).trans (h.other a (by omega)) }
  refine ⟨_, State.appendByte_next.mpr ⟨hfit, rfl⟩, ?_⟩
  obtain ⟨hfull, ht⟩ | ⟨hmore, ht⟩ := t.appended_cases b <;> rw [ht]
  · have hall : (data ++ [b]).length = s.len.toNat := by
      rw [List.length_append, List.length_singleton, ← hnext, hfull, hlen]
    exact ⟨rfl, .inl ⟨hall, { hstored with
      seq := rfl
      mode := h.mode
      rxs := h.rxs
      busy := rfl
      res := by rw [State.complete_res, zext16_toNat, hlen, hall] }⟩⟩
  · exact ⟨rfl, .inr { hstored with
      seq := h.seq
      mode := h.mode
      rxs := h.rxs
      room := by rw [List.length_append, List.length_singleton]; bv_omega }⟩

end

/-! ### Runs that spend one poll a step -/

/-- `s` runs to `t` with one poll a step, of which `n` are answered by a character and the others refused (R61). -/
def State.Polls (s : State) (n : Nat) (t : State) : Prop :=
  ∃ k, run k s = .next t ∧ k + t.polls.length = s.polls.length ∧ n + t.polls.count true = s.polls.count true

theorem State.Polls.refl (s : State) : s.Polls 0 s := ⟨0, rfl, Nat.zero_add _, Nat.zero_add _⟩

theorem State.Polls.trans {s t u : State} {n m : Nat} (h : s.Polls n t) (h' : t.Polls m u) : s.Polls (n + m) u := by
  obtain ⟨j, hj, hlen, hcount⟩ := h
  obtain ⟨k, hk, hlen', hcount'⟩ := h'
  exact ⟨j + k, (run_add hj).trans hk, by omega, by omega⟩

/-- The answers a run has not used are left for what follows. -/
theorem State.Polls.enough {s t : State} {n m : Nat} (h : s.Polls n t) (hm : n + m ≤ s.polls.count true) :
    m ≤ t.polls.count true := by
  obtain ⟨_, _, _, hcount⟩ := h
  omega

section
variable {s : State} (hp : s.par.ok = true) (hop : s.op = 0) (hi : s.inputs = [])
include hp hop hi

theorem step_decode (hs : s.seq ≠ .idle) : step s = exec (.decode s.len s.off) s := by
  rw [step_command hp hi hs, State.command, hop]; rfl

theorem step_d0 (hs : s.seq = .d0) (hlen : s.len ≠ 0) :
    step s = .next { s with mode := .normal, cnt := 0, seq := .d1 } := by
  rw [step_decode hp hop hi (by simp [hs]), exec_decode_labelled hs s.off rfl]
  exact if_neg hlen

theorem State.Decoding.step {t : State} {data rxs : List Byte} {m : Mode} (h : s.Decoding data m rxs t) :
    step t = decodeD1 t := by
  rw [step_decode (h.par ▸ hp) (h.op.trans hop) (h.inputs.trans hi) (by simp [h.seq]),
    exec_decode_labelled h.seq t.off rfl]
  rfl

/-- The row of the next character runs once a poll is answered, however many are refused before: what it does wherever
the DECODE receives that character, it does in the end. -/
theorem State.Decoding.polls_row {t : State} {data rest : List Byte} {m : Mode} {c : Byte} {P : State → Prop}
    (h : s.Decoding data m (c :: rest) t) (hpolls : 1 ≤ t.polls.count true)
    (hrow : ∀ u, s.Decoding data m (c :: rest) u →
      ∃ v, exec (decodeReceived s.par m c) u = .next v ∧ v.polls = u.polls.tail ∧ P v) :
    ∃ v, t.Polls 1 v ∧ P v := by
  have hstep := h.step hp hop hi
  generalize hq : t.polls = q at hpolls
  induction q generalizing t with
  | nil => simp at hpolls
  | cons a q ih =>
    cases a with
    | true =>
      obtain ⟨v, hv, hvq, hP⟩ := hrow t h
      rw [decodeD1_eq_exec_received h.rxs (by simp [State.rxAvailable, hq]), h.par, h.mode, hv] at hstep
      exact ⟨v, ⟨1, run_succ_next hstep, by simp [hvq, hq, Nat.add_comm], by simp [hvq, hq, Nat.add_comm]⟩, hP⟩
    | false =>
      rw [decodeD1_of_none (State.rxPoll_of_withheld h.rxs (by simp [State.rxAvailable, hq]))] at hstep
      have hspent : t.spendDraw.polls = q := by simp [hq]
      have hwait : t.Polls 0 t.spendDraw :=
        ⟨1, run_succ_next hstep, by simp [hq, Nat.add_comm], by simp [hq]⟩
      obtain ⟨v, hv, hP⟩ := ih h.spendDraw (h.spendDraw.step hp hop hi) hspent (by simpa using hpolls)
      exact ⟨v, Nat.zero_add 1 ▸ hwait.trans hv, hP⟩

/-! ### The parts of a frame -/

/-- An `END` before any byte is discarded (R116). -/
theorem State.Decoding.polls_noise {t : State} {rest : List Byte} (h : s.Decoding [] .normal (s.par.endC :: rest) t)
    (hpolls : 1 ≤ t.polls.count true) : ∃ v, t.Polls 1 v ∧ s.Decoding [] .normal rest v := by
  refine h.polls_row hp hop hi hpolls fun u hu => ?_
  have hcnt : u.cnt = 0 := BitVec.eq_of_toNat_eq hu.cnt
  rw [decodeReceived, if_pos rfl]
  exact ⟨_, if_pos hcnt, by simp, hu.takeChar_drive _⟩

/-- So is any number of them. -/
theorem State.Decoding.polls_noises {rest : List Byte} (n : Nat) {t : State}
    (h : s.Decoding [] .normal (List.replicate n s.par.endC ++ rest) t) (hpolls : n ≤ t.polls.count true) :
    ∃ v, t.Polls n v ∧ s.Decoding [] .normal rest v := by
  induction n generalizing t with
  | zero => exact ⟨t, .refl t, h⟩
  | succ n ih =>
    rw [Nat.add_comm] at hpolls ⊢
    obtain ⟨u, hu, hd⟩ := h.polls_noise hp hop hi (by omega)
    obtain ⟨v, hv, hd'⟩ := ih hd (hu.enough hpolls)
    exact ⟨v, hu.trans hv, hd'⟩

/-- An `END` behind the first byte closes the frame (R131). -/
theorem State.Decoding.polls_close {t : State} {data rest : List Byte} (hne : data ≠ [])
    (h : s.Decoding data .normal (s.par.endC :: rest) t) (hpolls : 1 ≤ t.polls.count true) :
    ∃ v, t.Polls 1 v ∧ s.Decoded data rest v := by
  refine h.polls_row hp hop hi hpolls fun u hu => ?_
  have hcnt : u.cnt ≠ 0 := fun h0 => hne (List.length_eq_zero_iff.mp (by rw [← hu.cnt, h0]; rfl))
  have htaken := hu.takeChar_drive u.par.endC
  rw [decodeReceived, if_pos rfl]
  refine ⟨_, if_neg hcnt, by simp, ?_⟩
  exact { htaken with seq := rfl, busy := rfl, res := (zext16_toNat u.cnt).trans hu.cnt }

variable (hsize : s.len.toNat ≤ s.par.bufSize.val)
include hsize

/-- In ESCAPED a character is stored as the byte it stands for (R114). -/
theorem State.Decoding.polls_escaped {t : State} {data rest : List Byte} {c : Byte}
    (h : s.Decoding data .escaped (c :: rest) t) (hpolls : 1 ≤ t.polls.count true) :
    ∃ v, t.Polls 1 v ∧ s.AfterByte (data ++ [translateByte s.par c]) rest v := by
  refine h.polls_row hp hop hi hpolls fun u hu => ?_
  have htaken := (hu.takeChar_drive c).setMode .normal
  obtain ⟨v, hv, hvq, hafter⟩ := htaken.appendByte hsize (translateByte s.par c)
  refine ⟨v, ?_, by simpa using hvq, hafter⟩
  rw [← hv, ← hu.par]
  unfold decodeReceived translateByte
  dsimp only
  split_ifs with he hs
  · rw [he]; rfl
  · rw [hs]; rfl
  · rfl

/-- `ESC` and a substitute are stored as the byte they stand for (R111, R114). -/
theorem State.Decoding.polls_pair {t : State} {data rest : List Byte} {c : Byte}
    (h : s.Decoding data .normal (s.par.escC :: c :: rest) t) (hpolls : 2 ≤ t.polls.count true) :
    ∃ v, t.Polls 2 v ∧ s.AfterByte (data ++ [translateByte s.par c]) rest v := by
  obtain ⟨hesc, -, -, -⟩ := Params.ok_iff.mp hp
  have hescaped : ∃ u, t.Polls 1 u ∧ s.Decoding data .escaped (c :: rest) u := by
    refine h.polls_row hp hop hi (by omega) fun u hu => ?_
    rw [decodeReceived, if_neg hesc.symm, if_pos rfl]
    exact ⟨_, rfl, by simp, (hu.takeChar_drive _).setMode .escaped⟩
  obtain ⟨u, hu, hd⟩ := hescaped
  obtain ⟨v, hv, hafter⟩ := hd.polls_escaped hp hop hi hsize (hu.enough hpolls)
  exact ⟨v, hu.trans hv, hafter⟩

/-- The characters a payload byte is sent as are stored as that byte (R81, R137). -/
theorem State.Decoding.polls_wireOf {t : State} {data rest : List Byte} {b : Byte}
    (h : s.Decoding data .normal (wireOf s.par b ++ rest) t)
    (hpolls : (wireOf s.par b).length ≤ t.polls.count true) :
    ∃ v, t.Polls (wireOf s.par b).length v ∧ s.AfterByte (data ++ [b]) rest v := by
  obtain ⟨-, -, -, hsub⟩ := Params.ok_iff.mp hp
  unfold wireOf at h hpolls ⊢
  split_ifs at h hpolls ⊢ with he hs
  · have hb : translateByte s.par s.par.escEnd = b := (if_pos rfl).trans he.symm
    exact hb ▸ h.polls_pair hp hop hi hsize hpolls
  · have hb : translateByte s.par s.par.escEsc = b := (if_neg hsub.symm).trans ((if_pos rfl).trans hs.symm)
    exact hb ▸ h.polls_pair hp hop hi hsize hpolls
  · refine h.polls_row hp hop hi hpolls fun u hu => ?_
    obtain ⟨v, hv, hvq, hafter⟩ := (hu.takeChar_drive b).appendByte hsize b
    rw [decodeReceived, if_neg he, if_neg hs]
    exact ⟨v, hv, by simpa using hvq, hafter⟩

/-- A payload that fits, as it stands on the wire, is stored byte by byte. -/
theorem State.Decoding.polls_payload {rest : List Byte} (payload : List Byte) {t : State} {data : List Byte}
    (h : s.Decoding data .normal (payload.flatMap (wireOf s.par) ++ rest) t)
    (hfit : data.length + payload.length ≤ s.len.toNat)
    (hpolls : (payload.flatMap (wireOf s.par)).length ≤ t.polls.count true) :
    ∃ v, t.Polls (payload.flatMap (wireOf s.par)).length v ∧ s.AfterByte (data ++ payload) rest v := by
  induction payload generalizing t data with
  | nil => exact ⟨t, .refl t, .inr (by simpa using h)⟩
  | cons b payload ih =>
    simp only [List.flatMap_cons, List.append_assoc, List.length_append, List.length_cons] at h hfit hpolls ⊢
    obtain ⟨u, hu, ⟨hfull, hdone⟩ | hd⟩ := h.polls_wireOf hp hop hi hsize (by omega)
    · rw [List.length_append, List.length_singleton] at hfull
      obtain rfl : payload = [] := List.length_eq_zero_iff.mp (by omega)
      exact ⟨u, hu, .inl ⟨by simpa using hfull, hdone⟩⟩
    · obtain ⟨v, hv, hafter⟩ := ih hd (by rw [List.length_append, List.length_singleton]; omega) (hu.enough hpolls)
      exact ⟨v, hu.trans hv, by simpa using hafter⟩

/-- From D0 a payload that fits, behind any `END`s, is stored; that takes a step more than polls. -/
theorem run_decode_payload {n : Nat} {payload rest : List Byte} (hs : s.seq = .d0) (hlen : 1 ≤ s.len.toNat)
    (hfit : payload.length ≤ s.len.toNat)
    (hr : s.rxs = List.replicate n s.par.endC ++ (payload.flatMap (wireOf s.par) ++ rest))
    (hpolls : n + (payload.flatMap (wireOf s.par)).length ≤ s.polls.count true) :
    ∃ u v, step s = .next u ∧ u.polls = s.polls ∧ u.Polls (n + (payload.flatMap (wireOf s.par)).length) v ∧
      s.AfterByte payload rest v := by
  have hne : s.len ≠ 0 := fun h0 => by rw [h0] at hlen; exact absurd hlen (by decide)
  have hstart : s.Decoding [] .normal (List.replicate n s.par.endC ++ (payload.flatMap (wireOf s.par) ++ rest))
      { s with mode := .normal, cnt := 0, seq := .d1 } :=
    ⟨⟨rfl, rfl, rfl, rfl, rfl, rfl, rfl, fun i hi => absurd hi (Nat.not_lt_zero i), fun _ _ => rfl⟩,
      rfl, rfl, hr, hlen⟩
  obtain ⟨u, hu, hd⟩ := hstart.polls_noises hp hop hi n (show n ≤ s.polls.count true by omega)
  obtain ⟨v, hv, hafter⟩ := hd.polls_payload hp hop hi hsize payload (by simpa using hfit) (hu.enough hpolls)
  exact ⟨_, v, step_d0 hp hop hi hs hne, rfl, hu.trans hv, hafter⟩

/-- A DECODE of a frame whose payload fits completes with the payload, and takes the closing `END` unless the payload
fills the capacity. -/
theorem run_decode_frame {n : Nat} {payload rest : List Byte} (hs : s.seq = .d0) (hpos : 1 ≤ payload.length)
    (hfit : payload.length ≤ s.len.toNat)
    (hr : s.rxs = List.replicate n s.par.endC ++ wireFrame s.par payload ++ rest)
    (hpolls : n + (wireFrame s.par payload).length ≤ s.polls.count true) :
    ∃ k t, k ≤ s.polls.length + 1 ∧ run k s = .next t ∧
      s.Decoded payload (if payload.length = s.len.toNat then s.par.endC :: rest else rest) t := by
  have hstream : s.rxs =
      List.replicate (n + 1) s.par.endC ++ (payload.flatMap (wireOf s.par) ++ s.par.endC :: rest) := by
    rw [hr, wireFrame, List.replicate_succ']; simp
  have hcount : n + 1 + (payload.flatMap (wireOf s.par)).length + 1 ≤ s.polls.count true := by
    rw [wireFrame, List.length_append, List.length_cons, List.length_singleton] at hpolls; omega
  obtain ⟨u, v, hstep, hq, hv, hafter⟩ := run_decode_payload hp hop hi hsize hs (by omega) hfit hstream (by omega)
  have hclosed : ∃ w m, u.Polls m w ∧
      s.Decoded payload (if payload.length = s.len.toNat then s.par.endC :: rest else rest) w := by
    obtain ⟨hfull, hdone⟩ | hd := hafter
    · exact ⟨v, _, hv, by rwa [if_pos hfull]⟩
    · obtain ⟨w, hw, hdone⟩ := hd.polls_close hp hop hi (List.ne_nil_of_length_pos hpos)
        (hv.enough (by rwa [hq]))
      exact ⟨w, _, hv.trans hw, by rwa [if_neg hd.room.ne]⟩
  obtain ⟨w, _, ⟨k, hk, hlen, _⟩, hdone⟩ := hclosed
  exact ⟨k + 1, w, by rw [hq] at hlen; omega, (run_succ_next hstep).trans hk, hdone⟩

end

/-- Settles O16: the leading `END`s are noise, each payload byte is stored from the characters it is sent as, and the
closing `END` is taken unless the capacity is full (`run_decode_frame`). -/
theorem decodeReadsEncodedFrame : Obligations.DecodeReadsEncodedFrame := by
  intro s n payload rest hp hs hop hi hpos hfit hsize hr hpolls
  obtain ⟨k, t, hk, hrun, hd⟩ := run_decode_frame hp hop hi hsize hs hpos hfit hr hpolls
  exact ⟨k, t, hk, hrun, hd.busy, hd.seq, hd.res, hd.stored, hd.rxs, hd.mode, hd.txlog, hd.op, hd.len, hd.off,
    hd.other⟩

end Sys2Proof.Machine
end

section
/-! ## The frame delimiter detector (40_delimiter_detector) -/

namespace Sys2Proof.Machine

section
variable (p : Params) (m : Mode) (cnt : BitVec 8) (c : Byte)

/-! The lines of R111 and R112 as the propositions they stand for. -/

theorem isEnd_eq_decide : isEnd p c = decide (c = p.endC) := rfl

theorem isEsc_eq_decide : isEsc p c = decide (c ≠ p.endC ∧ c = p.escC) := by
  rw [Bool.decide_and, decide_not]; rfl

theorem frameEnd_eq_decide : frameEnd p m cnt c = decide (m = .normal ∧ c = p.endC ∧ 0 < cnt.toNat) := by
  rw [frameEnd, isEnd, Bool.and_assoc, Bool.decide_and, Bool.decide_and]; rfl

theorem noise_eq_decide : noise p m cnt c = decide (m = .normal ∧ c = p.endC ∧ cnt.toNat = 0) := by
  rw [noise, isEnd, Bool.and_assoc, Bool.decide_and, Bool.decide_and]; rfl

end

/-- Settles O39: the five cases are told apart by the mode, in NORMAL by which character `c` is, and for `END` by the
count. -/
theorem detectorCasesAreExclusive : Obligations.DetectorCasesAreExclusive := by
  intro p m cnt c
  simp only [detect, isEnd_eq_decide, isEsc_eq_decide, frameEnd_eq_decide, noise_eq_decide]
  cases m with
  | escaped => simp
  | normal =>
    by_cases he : c = p.endC
    · by_cases h0 : cnt.toNat = 0
      · simp [he, h0]
      · simp [he, h0, Nat.pos_of_ne_zero h0]
    · by_cases hs : c = p.escC
      · subst hs; simp [he]
      · simp [he, hs]

/-- Settles O40: each row writes its lines as the model computes them. -/
theorem detectorRowsDriveLines : Obligations.DetectorRowsDriveLines := by
  intro s c
  rw [← isEsc_eq_decide, ← frameEnd_eq_decide, ← noise_eq_decide]
  exact ⟨rfl, rfl, rfl, rfl⟩

end Sys2Proof.Machine
end

section
/-! ## DECODE to its end (41_decoder R130, R131, R132, R138) -/

namespace Sys2Proof.Machine

/-! ### A frame longer than the capacity -/

/-- A frame on the wire, cut behind the characters of its first `n` payload bytes. -/
theorem wireFrame_eq_take_drop (p : Params) (payload : List Byte) (n : Nat) :
    wireFrame p payload =
      p.endC :: ((payload.take n).flatMap (wireOf p) ++ ((payload.drop n).flatMap (wireOf p) ++ [p.endC])) := by
  rw [wireFrame, ← List.append_assoc, ← List.flatMap_append, List.take_append_drop]; rfl

/-- A DECODE of a frame whose payload exceeds the capacity completes once the first `LEN` bytes are stored, and takes no
character behind those they are sent as. -/
theorem run_decode_truncated {s : State} {payload rest : List Byte} (hp : s.par.ok = true) (hop : s.op = 0)
    (hi : s.inputs = []) (hsize : s.len.toNat ≤ s.par.bufSize.val) (hs : s.seq = .d0) (hlen : 1 ≤ s.len.toNat)
    (hlong : s.len.toNat < payload.length) (hr : s.rxs = wireFrame s.par payload ++ rest)
    (hpolls : (wireFrame s.par payload).length ≤ s.polls.count true) :
    ∃ k t, k ≤ s.polls.length + 1 ∧ run k s = .next t ∧
      s.Decoded (payload.take s.len.toNat)
        ((payload.drop s.len.toNat).flatMap (wireOf s.par) ++ [s.par.endC] ++ rest) t := by
  have htake : (payload.take s.len.toNat).length = s.len.toNat := List.length_take_of_le hlong.le
  rw [wireFrame_eq_take_drop _ _ s.len.toNat] at hr hpolls
  simp only [List.length_cons, List.length_append] at hpolls
  obtain ⟨u, v, hstep, hq, ⟨k, hk, hused, -⟩, hafter⟩ :=
    run_decode_payload hp hop hi hsize (n := 1) hs hlen htake.le (by simpa using hr) (by omega)
  obtain ⟨-, hdone⟩ | hmore := hafter
  · exact ⟨k + 1, v, by rw [hq] at hused; omega, (run_succ_next hstep).trans hk, by simpa using hdone⟩
  · exact absurd hmore.room htake.not_lt

/-- Settles O17, by `run_decode_truncated`. -/
theorem decodeTruncatesLongFrame : Obligations.DecodeTruncatesLongFrame := by
  intro s payload rest hp hs hop hi hlen hlong hsize hr hpolls
  obtain ⟨k, t, hk, hrun, hd⟩ := run_decode_truncated hp hop hi hsize hs hlen hlong hr hpolls
  have htake : (payload.take s.len.toNat).length = s.len.toNat := List.length_take_of_le hlong.le
  have hres : t.res = zext16 s.len := BitVec.eq_of_toNat_eq (by rw [hd.res, htake, zext16_toNat])
  exact ⟨k, t, hk, hrun, hd.busy, hd.seq, hres, hd.stored, hd.rxs, hd.mode, htake ▸ hd.other⟩

/-! ### The ways to complete -/

theorem zext16_eq_zero {v : Byte} : zext16 v = 0 ↔ v = 0 := by
  rw [← BitVec.toNat_inj, ← BitVec.toNat_inj, zext16_toNat]; rfl

/-- An append that completes does so with a full buffer (R132). -/
theorem State.appended_completed {s : State} {v : Byte} (hb : s.busy = true) (hd : (s.appended v).busy = false) :
    (s.appended v).cnt = s.len ∧ (s.appended v).res = zext16 s.len := by
  obtain ⟨hfull, ht⟩ | ⟨_, ht⟩ := s.appended_cases v <;> rw [ht] at hd ⊢
  · exact ⟨hfull, rfl⟩
  · exact absurd (hb.symm.trans hd) (by decide)

/-- The two ways in which D1 completes (R131). -/
theorem decodeD1_completed {s t : State} (hb : s.busy = true) (h : decodeD1 s = .next t) (hd : t.busy = false) :
    (t.cnt = s.len ∧ t.res = zext16 s.len) ∨
    (s.mode = .normal ∧ s.rxs.head? = some s.par.endC ∧ t.cnt = s.cnt ∧ s.cnt ≠ 0 ∧ t.res = zext16 s.cnt) := by
  have hbusy : ∀ {u : State}, u.busy = s.busy → u.busy ≠ false := fun hu hf =>
    absurd (hb.symm.trans (hu.symm.trans hf)) (by decide)
  obtain ⟨_, rfl⟩ | ⟨_, _, rfl⟩ | ⟨c, rest, hr, _, hc⟩ := decodeD1_next h
  · exact absurd hd (hbusy rfl)
  · exact absurd hd (hbusy (by simp))
  · obtain ⟨hm, he, hcnt, rfl⟩ | ⟨_, _, _, rfl⟩ | ⟨_, _, _, rfl⟩ | ⟨_, _, _, _, rfl⟩ | ⟨_, _, rfl⟩ := hc
    · exact .inr ⟨hm, by rw [hr, he]; rfl, by simp, hcnt, by simp⟩
    · exact absurd hd (hbusy (by simp))
    · exact absurd hd (hbusy (by simp))
    · exact .inl (by simpa using State.appended_completed (by simpa using hb) hd)
    · exact .inl (by simpa using State.appended_completed (by simpa using hb) hd)

/-- Settles O7: the two branches of D0. -/
theorem decodeFirstStep : Obligations.DecodeFirstStep := by
  intro s off hs
  rw [exec_decode_labelled hs off rfl]
  exact ⟨fun h0 => if_pos h0, fun h0 => if_neg h0⟩

/-- Settles O15: D0 completes only for `LEN` 0, D1 as `decodeD1_completed` says, where `CNT` is below `LEN`; the label and
the mode that are left are the invariant's. -/
theorem decodeOutcomes : Obligations.DecodeOutcomes := by
  intro s t off h hs he hd
  have hb : s.busy = true := h.busy_iff.mpr (by obtain hs | hs := hs <;> simp [hs])
  obtain hs | hs := hs <;> rw [exec_decode_labelled hs off rfl] at he
  · obtain ⟨h0, rfl⟩ | ⟨_, rfl⟩ := decodeD0_next he
    · exact ⟨.inl ⟨hs, h0, rfl⟩, iff_of_true rfl h0, rfl, rfl⟩
    · exact absurd (hb.symm.trans hd) (by decide)
  · have hlt := h.cnt_below_len hs
    have hlen : s.len ≠ 0 := by bv_omega
    have ht := decodeD1_inv h hs he
    have hidle := ht.idle_of_not_busy hd
    have hmode := ht.mode_normal (by simp [hidle])
    obtain ⟨hcnt, hres⟩ | ⟨hm, hend, hcnt, h0, hres⟩ := decodeD1_completed hb he hd
    · exact ⟨.inr (.inl ⟨hs, hlen, hcnt, hres⟩), by rw [hres, zext16_eq_zero], hmode, hidle⟩
    · exact ⟨.inr (.inr ⟨hs, hm, hend, hcnt, by bv_omega, hlt, hres⟩),
        iff_of_false (by rwa [hres, zext16_eq_zero]) hlen, hmode, hidle⟩

end Sys2Proof.Machine
end

section
/-! ## ENCODE of a whole payload (42_encoder R160, R161, R162) -/

namespace Sys2Proof.Machine

/-- Settles O19: E1 goes on with the byte its read answers, and the other steps make no access. -/
theorem encodeSteps : Obligations.EncodeSteps := by
  intro s off
  refine ⟨fun hs => exec_encode_labelled hs off rfl, fun b hs hi hb => ?_, fun hs => exec_encode_labelled hs off rfl,
    fun hs => ?_⟩
  · have hread := orFault_of_ok (State.memRead1_written hi hb)
    exact (exec_encode_labelled hs off rfl).trans ((hread _).trans (by rw [hs]; rfl))
  · rw [BitVec.ofNat_toNat]
    exact exec_encode_labelled hs off rfl

/-! ### Runs that send one character a step -/

/-- `s` runs to `t` and each step appends the next of the characters to `TXLOG`. -/
inductive State.SendsEach : State → List Byte → State → Prop
  | refl (s : State) : State.SendsEach s [] s
  | head {s u t : State} {c : Byte} {cs : List Byte} (hstep : step s = .next u) (hlog : u.txlog = s.txlog ++ [c])
      (h : State.SendsEach u cs t) : State.SendsEach s (c :: cs) t

theorem State.SendsEach.single {s t : State} {c : Byte} (hstep : step s = .next t) (hlog : t.txlog = s.txlog ++ [c]) :
    s.SendsEach [c] t :=
  .head hstep hlog (.refl t)

theorem State.SendsEach.append {s t u : State} {cs ds : List Byte} (h : s.SendsEach cs t) (h' : t.SendsEach ds u) :
    s.SendsEach (cs ++ ds) u := by
  induction h with
  | refl => exact h'
  | head hstep hlog _ ih => exact .head hstep hlog (ih h')

theorem State.SendsEach.run_length {s t : State} {cs : List Byte} (h : s.SendsEach cs t) : run cs.length s = .next t := by
  induction h with
  | refl => rfl
  | head hstep _ _ ih => exact (run_succ_next hstep).trans ih

theorem State.SendsEach.txlog {s t : State} {cs : List Byte} (h : s.SendsEach cs t) : t.txlog = s.txlog ++ cs := by
  induction h with
  | refl => exact (List.append_nil _).symm
  | head _ hlog _ ih => rw [ih, hlog, List.append_assoc]; rfl

theorem State.SendsEach.take {s t : State} {cs : List Byte} (h : s.SendsEach cs t) (j : Nat) :
    ∃ u, s.SendsEach (cs.take j) u := by
  induction h generalizing j with
  | refl s =>
    rw [List.take_nil]
    exact ⟨s, .refl s⟩
  | @head s _ _ _ _ hstep hlog _ ih =>
    cases j with
    | zero => exact ⟨s, .refl s⟩
    | succ j =>
      obtain ⟨v, hv⟩ := ih j
      exact ⟨v, .head hstep hlog hv⟩

/-! ### The parts of a frame -/

/-- The state `s` of an ENCODE after it has sent `chars` more, with `IDX`, `SUB` and `SEQ` as R160 leaves them. -/
def State.afterSend (s : State) (chars : List Byte) (i : BitVec 9) (sub : Byte) (q : Seq) : State :=
  { s with txlog := s.txlog ++ chars, idx := i, sub := sub, seq := q }

theorem State.afterSend_afterSend (s : State) (cs ds : List Byte) (i j : BitVec 9) (b c : Byte) (q r : Seq) :
    (s.afterSend cs i b q).afterSend ds j c r = s.afterSend (cs ++ ds) j c r := by
  simp only [State.afterSend, List.append_assoc]

/-- Where R160 goes once `IDX` is `i`: to the trailing delimiter behind the last byte, else to the next byte. -/
def encodeLabel (i : BitVec 9) (len : Byte) : Seq := if i.toNat = len.toNat then .e3 else .e1

theorem encodeLabel_zero (len : Byte) : encodeLabel 0 len = if len = 0 then .e3 else .e1 :=
  if_congr ⟨fun h => (BitVec.eq_of_toNat_eq h).symm, fun h => h ▸ rfl⟩ rfl rfl

section
variable {s : State} (hp : s.par.ok = true) (hi : s.inputs = []) (hop : s.op = 1)
include hp hi hop

theorem step_encode (hs : s.seq ≠ .idle) : step s = exec (.encode s.len s.off) s := by
  rw [step_command hp hi hs, State.command, hop]; rfl

/-- E0 sends the leading delimiter. -/
theorem sendsEach_leadingEnd (hs : s.seq = .e0) :
    s.SendsEach [s.par.endC] (s.afterSend [s.par.endC] 0 s.sub (encodeLabel 0 s.len)) := by
  obtain ⟨he0, _⟩ := encodeSteps s s.off
  rw [encodeLabel_zero]
  exact .single ((step_encode hp hi hop (by simp [hs])).trans (he0 hs)) rfl

/-- E3 sends the trailing delimiter and completes. -/
theorem sendsEach_trailingEnd (hs : s.seq = .e3) :
    s.SendsEach [s.par.endC] ((s.afterSend [s.par.endC] s.idx s.sub .e3).complete (zext16 s.len)) :=
  .single ((step_encode hp hi hop (by simp [hs])).trans (exec_encode_labelled hs s.off rfl)) rfl

/-- E2 sends the second half of an escape pair. -/
theorem sendsEach_substitute (hs : s.seq = .e2) :
    s.SendsEach [s.sub] (s.afterSend [s.sub] (s.idx + 1) s.sub (encodeLabel (s.idx + 1) s.len)) := by
  obtain ⟨_, _, he2, _⟩ := encodeSteps s s.off
  exact .single ((step_encode hp hi hop (by simp [hs])).trans (he2 hs)) rfl

/-- From E1 a step that sends `ESC` and holds a substitute is followed by the step E2 that sends it. -/
theorem sendsEach_escapePair {b : Byte} (hstep : step s = .next (s.afterSend [s.par.escC] s.idx b .e2)) :
    s.SendsEach [s.par.escC, b]
      (s.afterSend [s.par.escC, b] (s.idx + 1) b (encodeLabel (s.idx + 1) s.len)) := by
  have hsub := sendsEach_substitute (s := s.afterSend [s.par.escC] s.idx b .e2) hp hi hop rfl
  rw [State.afterSend_afterSend] at hsub
  exact .head hstep rfl hsub

/-- From E1 the byte `BUF[IDX]` is sent as R81 says. -/
theorem sendsEach_payloadByte {b : Byte} (hs : s.seq = .e1) (hidx : s.idx.toNat + 1 ≤ s.par.bufSize.val)
    (hb : s.buf.get s.idx.toNat = some b) :
    ∃ sub, s.SendsEach (wireOf s.par b)
      (s.afterSend (wireOf s.par b) (s.idx + 1) sub (encodeLabel (s.idx + 1) s.len)) := by
  obtain ⟨_, he1, _⟩ := encodeSteps s s.off
  have hstep := (step_encode hp hi hop (by simp [hs])).trans (he1 b hs hidx hb)
  unfold wireOf
  by_cases hend : b = s.par.endC
  · rw [if_pos hend] at hstep ⊢
    exact ⟨_, sendsEach_escapePair hp hi hop hstep⟩
  · rw [if_neg hend] at hstep ⊢
    by_cases hesc : b = s.par.escC
    · rw [if_pos hesc] at hstep ⊢
      exact ⟨_, sendsEach_escapePair hp hi hop hstep⟩
    · rw [if_neg hesc] at hstep ⊢
      exact ⟨s.sub, .single hstep rfl⟩

end

/-- `BUF` holds the rest of its bytes from the next index on. -/
theorem State.holds.tail {s : State} {a : Nat} {b : Byte} {rest : List Byte} (h : s.holds a (b :: rest)) :
    s.holds (a + 1) rest := by
  intro i hi
  rw [Nat.add_right_comm, Nat.add_assoc]
  exact h (i + 1) (Nat.succ_lt_succ hi)

/-- From the `IDX`-th byte on ENCODE sends the rest of its payload, byte for byte, and stands at E3. -/
theorem sendsEach_payload (rest : List Byte) {s : State} (hp : s.par.ok = true) (hi : s.inputs = []) (hop : s.op = 1)
    (hs : s.seq = encodeLabel s.idx s.len) (hlen : s.idx.toNat + rest.length = s.len.toNat)
    (hsize : s.len.toNat ≤ s.par.bufSize.val) (hrest : s.holds s.idx.toNat rest) :
    ∃ i sub, s.SendsEach (rest.flatMap (wireOf s.par)) (s.afterSend (rest.flatMap (wireOf s.par)) i sub .e3) := by
  induction rest generalizing s with
  | nil =>
    have hq : s.seq = .e3 := hs.trans (if_pos hlen)
    have hself : s.afterSend [] s.idx s.sub .e3 = s := by rw [State.afterSend, List.append_nil, ← hq]
    exact ⟨s.idx, s.sub, hself.symm ▸ .refl s⟩
  | cons b rest ih =>
    rw [List.length_cons] at hlen
    have hnext : (s.idx + 1).toNat = s.idx.toNat + 1 := by bv_omega
    have hb : s.buf.get s.idx.toNat = some b := hrest 0 (by simp)
    obtain ⟨sub, hsend⟩ := sendsEach_payloadByte hp hi hop (hs.trans (if_neg (by omega))) (by omega) hb
    obtain ⟨i, sub', hmore⟩ := ih
      (s := s.afterSend (wireOf s.par b) (s.idx + 1) sub (encodeLabel (s.idx + 1) s.len)) hp hi hop rfl
      (by simp only [State.afterSend, hnext]; omega) hsize
      (by simp only [State.afterSend, hnext]; exact hrest.tail)
    rw [State.afterSend_afterSend] at hmore
    exact ⟨i, sub', hsend.append hmore⟩

/-- ENCODE sends the frame of its payload, one character a step, and completes with `LEN` (R161, R162). -/
theorem sendsEach_wireFrame {s : State} {payload : List Byte} (hp : s.par.ok = true) (hi : s.inputs = []) (hop : s.op = 1)
    (hs : s.seq = .e0) (hlen : payload.length = s.len.toNat) (hsize : s.len.toNat ≤ s.par.bufSize.val)
    (hdata : s.holds 0 payload) :
    ∃ i sub, s.SendsEach (wireFrame s.par payload)
      ((s.afterSend (wireFrame s.par payload) i sub .e3).complete (zext16 s.len)) := by
  have hlead := sendsEach_leadingEnd hp hi hop hs
  obtain ⟨i, sub, hbytes⟩ := sendsEach_payload payload
    (s := s.afterSend [s.par.endC] 0 s.sub (encodeLabel 0 s.len)) hp hi hop rfl
    ((Nat.zero_add _).trans hlen) hsize hdata
  have htrail := sendsEach_trailingEnd (s := s.afterSend (s.par.endC :: payload.flatMap (wireOf s.par)) i sub .e3)
    hp hi hop rfl
  rw [State.afterSend_afterSend] at hbytes htrail
  exact ⟨i, sub, (hlead.append hbytes).append htrail⟩

/-- Settles O23: a prefix of the frame is sent by as many steps as it has characters. -/
theorem encodeSendsFrame : Obligations.EncodeSendsFrame := by
  intro s payload hp hs hop hi hlen hsize hdata
  obtain ⟨i, sub, hsend⟩ := sendsEach_wireFrame hp hi hop hs hlen hsize hdata
  obtain ⟨_, _, _, hcount⟩ := frameHasEndOnlyAtItsEnds s.par payload hp
  rw [← hcount]
  refine ⟨rfl, fun j hj => ?_, _, hsend.run_length, hsend.txlog, rfl, rfl, rfl, rfl, rfl, rfl, rfl, rfl, rfl⟩
  obtain ⟨u, hu⟩ := hsend.take j
  have hrun := hu.run_length
  rw [List.length_take_of_le hj] at hrun
  exact ⟨u, hrun, hu.txlog⟩

end Sys2Proof.Machine
end

section
/-! ## The CRC-16 generator (43_crc16_generator R183 to R187) -/

namespace Sys2Proof.Machine

/-! ### The rows CRCCLR and CRCUPD (R184, R185, R186) -/

/-- The updates of a byte sequence fold it into `CRC`. -/
theorem execAll_crcupd (bytes : List Byte) (s : State) :
    execAll (bytes.map .crcupd) s = .next { s with crc := bytes.foldl (crc16Update s.par.crcFn) s.crc } := by
  induction bytes generalizing s with
  | nil => rfl
  | cons b bytes ih => exact ih (s.crcFold b)

/-- Settles O36: after the clear the updates fold the sequence from 0 on (`execAll_crcupd`). -/
theorem crcRowsComputeCrc16 : Obligations.CrcRowsComputeCrc16 :=
  fun s bytes => ⟨rfl, fun _ => rfl, execAll_crcupd bytes s.crcClear⟩

/-! ### The default function on zeros (R187 (b)) -/

theorem crc16Arc_zero : crc16Arc 0 0 = 0 := by decide

/-- Settles O37: a zero byte leaves a zero CRC as it is. -/
theorem defaultCrcOfZerosIsZero : Obligations.DefaultCrcOfZerosIsZero := by
  intro n
  induction n with
  | zero => rfl
  | succ n ih =>
    calc crc16 .arc (List.replicate (n + 1) 0)
        = (List.replicate n 0).foldl (crc16Update .arc) (crc16Arc 0 0) := rfl
      _ = crc16 .arc (List.replicate n 0) := by rw [crc16Arc_zero]; rfl
      _ = 0 := ih

/-! ### The default function loses nothing (R187 (a))

The polynomial `0xA001` has its top bit set, so the top bit of a shift's result tells whether the polynomial was added,
and with that the shift can be undone. -/

/-- The bit shifted out is the top bit of the result. -/
theorem crcShift_topBit (t : Word) : (crcShift t).getLsbD 15 = t.getLsbD 0 := by
  unfold crcShift
  split <;> simp_all

/-- A word is determined by the bit a shift drops and the bits it keeps. -/
theorem ext_of_shiftRight_one {t u : Word} (hlow : t.getLsbD 0 = u.getLsbD 0) (hhigh : t >>> 1 = u >>> 1) : t = u := by
  refine BitVec.eq_of_getLsbD_eq fun i _ => ?_
  cases i with
  | zero => exact hlow
  | succ i => simpa [Nat.add_comm] using congrArg (·.getLsbD i) hhigh

theorem crcShift_injective : Function.Injective crcShift := by
  intro t u h
  have hlow : t.getLsbD 0 = u.getLsbD 0 := by rw [← crcShift_topBit, h, crcShift_topBit]
  refine ext_of_shiftRight_one hlow ?_
  unfold crcShift at h
  rw [hlow] at h
  split at h
  · exact (BitVec.xor_left_inj _).mp h
  · exact h

theorem crcShifts_injective (n : Nat) : Function.Injective (crcShifts n) := by
  induction n with
  | zero => exact Function.injective_id
  | succ n ih => exact ih.comp crcShift_injective

/-- One byte folded into two different CRCs gives different CRCs. -/
theorem crc16Arc_left_injective (b : Byte) : Function.Injective (crc16Arc · b) :=
  fun _ _ h => (BitVec.xor_left_inj _).mp (crcShifts_injective 8 h)

/-- Two different bytes folded into one CRC give different CRCs. -/
theorem crc16Arc_right_injective (crc : Word) : Function.Injective (crc16Arc crc) := by
  intro b c h
  have hwide : b.setWidth 16 = c.setWidth 16 := (BitVec.xor_right_inj _).mp (crcShifts_injective 8 h)
  bv_omega

/-- A byte sequence folded into two different CRCs gives different CRCs. -/
theorem foldl_crc16Arc_injective (bytes : List Byte) : Function.Injective (bytes.foldl (crc16Update .arc)) := by
  induction bytes with
  | nil => exact Function.injective_id
  | cons b bytes ih => exact ih.comp (crc16Arc_left_injective b)

/-- Settles O38: the CRCs differ after the changed byte, and no byte after it makes different CRCs equal. -/
theorem defaultCrcSeesOneByteChange : Obligations.DefaultCrcSeesOneByteChange := by
  intro before after b c hne h
  simp only [crc16, List.foldl_append, List.foldl_cons] at h
  exact hne (crc16Arc_right_injective _ (foldl_crc16Arc_injective after h))

/-- A sequence with its byte at an index overwritten by another one has another CRC. -/
theorem crc16_arc_set_ne {bytes : List Byte} {j : Nat} {c : Byte} (hj : j < bytes.length) (hc : bytes[j]? ≠ some c) :
    crc16 .arc (bytes.set j c) ≠ crc16 .arc bytes := by
  have hne : bytes[j] ≠ c := fun e => hc (by rw [List.getElem?_eq_getElem hj, e])
  have hsplit : bytes = bytes.take j ++ bytes[j] :: bytes.drop (j + 1) := by simp
  have hset : bytes.set j c = bytes.take j ++ c :: bytes.drop (j + 1) := by
    rw [List.set_eq_take_append_cons_drop, if_pos hj]
  rw [hset]
  conv_rhs => rw [hsplit]
  exact (defaultCrcSeesOneByteChange _ _ _ _ hne).symm

/-! ### VERIFY of a buffer with one byte changed -/

/-- A buffer holds what it was found to hold at an index. -/
theorem State.holds.get_eq {s : State} {data : List Byte} {i : Nat} {b : Byte} (h : s.holds 0 data)
    (hb : data[i]? = some b) : s.buf.get i = some b := by
  obtain ⟨hi, rfl⟩ := List.getElem?_eq_some_iff.mp hb
  rw [← h i hi, Nat.zero_add]

/-- A byte written among those a buffer holds replaces the one there. -/
theorem State.holds.overwrite {s t : State} {data : List Byte} {i : Nat} {b : Byte} (h : s.holds 0 data)
    (ht : t.buf = s.buf.set i b) : t.holds 0 (data.set i b) := by
  intro j hj
  rw [ht, Nat.zero_add]
  by_cases hji : j = i
  · subst hji; simp
  · have hget := h.get_eq (List.getElem?_eq_getElem (by simpa using hj))
    rw [Memory.get_set_other _ _ hji, List.getElem_set_ne (Ne.symm hji), hget]

/-- A field written among the data a buffer holds replaces the two bytes there. -/
theorem State.holds.overwriteField {s t : State} {data : List Byte} {a : Nat} {b : Byte × Byte} (h : s.holds 0 data)
    (ht : t.buf = s.buf.setField a b) : t.holds 0 ((data.set a b.1).set (a + 1) b.2) :=
  State.holds.overwrite (s := { s with buf := s.buf.set a b.1 }) (h.overwrite rfl) ht

/-- A read of a field among the data a buffer holds gives the CRC of its two bytes (R53). -/
theorem State.holds.memRead2 {s : State} {data : List Byte} {a : Nat} {lo hi : Byte} (h : s.holds 0 data)
    (ha : a + 2 ≤ s.par.bufSize.val) (hlo : data[a]? = some lo) (hhi : data[a + 1]? = some hi) :
    s.memRead2 a = .ok (crcOfBytes s.par.order lo hi) :=
  State.memRead2_ok.mpr ⟨ha, lo, hi, h.get_eq hlo, h.get_eq hhi, rfl⟩

/-- Settles O30: VERIFY reads the field the change left alone (`State.holds.memRead2`), and the CRC it computes is not
the one in it (`crc16_arc_set_ne`). -/
theorem verifyDetectsByteChange : Obligations.VerifyDetectsByteChange := by
  intro s data lo hi c j hp hcrc hs hop hin hpre hsize hlen hlo hhi hfield hj hjlo hjhi hc hdata
  have hread : s.memRead2 s.off.toNat = .ok (crcOfBytes s.par.order lo hi) :=
    hdata.memRead2 (hpre.trans hsize) (by rwa [List.getElem?_set_ne hjlo]) (by rwa [List.getElem?_set_ne hjhi])
  obtain ⟨i, hrun⟩ := run_verifyOperation hp hs hop hin hpre hsize (by simp [hlen]) hread
    (hdata.overwriteField (b := (0, 0)) rfl)
  refine ⟨_, hrun, rfl, if_neg ?_⟩
  rw [hcrc, ← hfield, List.set_comm _ _ hjlo, List.set_comm _ _ hjhi]
  apply crc16_arc_set_ne
  · simpa using hj
  · rwa [List.getElem?_set_ne hjhi.symm, List.getElem?_set_ne hjlo.symm]

end Sys2Proof.Machine
end

section
/-! ## VERIFY: its precondition and its whole run (44_crc_verify R190 to R194) -/

namespace Sys2Proof.Machine

/-! ### The precondition (R191) -/

theorem verifyPrecondition_eq_false_iff {len off : Byte} :
    verifyPrecondition len off = false ↔ len.toNat < off.toNat + 2 := by
  rw [← Bool.not_eq_true, verifyPrecondition_iff, Nat.not_le]

section
variable {s : State} (hs : s.seq = .v0)
include hs

theorem exec_verify_v0_of_le (hpre : s.off.toNat + 2 ≤ s.len.toNat) :
    exec (.verify s.len s.off) s = .next { s with seq := .v1 } :=
  (exec_verify_labelled hs rfl).trans (if_pos (verifyPrecondition_iff.mpr hpre))

theorem exec_verify_v0_of_lt (hpre : s.len.toNat < s.off.toNat + 2) :
    exec (.verify s.len s.off) s = .next (s.complete 0) :=
  (exec_verify_labelled hs rfl).trans (if_neg (mt verifyPrecondition_iff.mp hpre.not_ge))

end

/-- Settles O25: V0 takes its branches as `OFF + 2 <= LEN` says, which no `LEN` below 2 meets and no 8-bit `LEN` meets
for `OFF >= 254`. -/
theorem verifyPreconditionExact : Obligations.VerifyPreconditionExact := by
  refine ⟨fun s hs => ⟨fun ⟨_, hpre⟩ => exec_verify_v0_of_le hs hpre, fun hpre => exec_verify_v0_of_lt hs (by omega)⟩,
    fun off => ?_, fun len off hoff => ?_, by decide⟩
  · exact verifyPrecondition_eq_false_iff.mpr (Nat.lt_add_left _ (by decide))
  · have hlen := len.isLt
    exact verifyPrecondition_eq_false_iff.mpr (by omega)

/-! ### The whole operation (R190, R192, R193, R194) -/

/-- Settles O29: the field read at V1 is that of the data (`State.holds.memRead2`), the bytes folded are the data with
the field zeroed (`State.holds.overwriteField`), and the run is `run_verifyOperation`. -/
theorem verifyWholeOperation : Obligations.VerifyWholeOperation := by
  intro s data lo hi hp hs hop hin hpre hsize hlen hdata hlo hhi
  have hzeroed : ({ s with buf := s.buf.setField s.off.toNat (0, 0) } : State).holds 0
      ((data.set s.off.toNat 0).set (s.off.toNat + 1) 0) := hdata.overwriteField (b := (0, 0)) rfl
  obtain ⟨i, hrun⟩ := run_verifyOperation hp hs hop hin hpre hsize (by simp [hlen])
    (hdata.memRead2 (hpre.trans hsize) hlo hhi) hzeroed
  have hres {v w : Word} : (if v = w then v else 0) = if v = w then w else 0 := ite_congr rfl id fun _ => rfl
  exact ⟨_, hrun, rfl, rfl, hres, hzeroed, fun _ hlow hhigh => Memory.get_setField_other _ _ hlow hhigh,
    rfl, rfl, rfl, rfl, rfl⟩

end Sys2Proof.Machine
end

section
/-! ## APPEND: its whole run (45_crc_append R210, R212, R213) -/

namespace Sys2Proof.Machine

/-- The 16-bit sum of R210 and R212 does not wrap. -/
theorem toNat_appendTotal (len : Byte) : (appendTotal len).toNat = len.toNat + 2 := by
  have hlen := len.isLt
  rw [appendTotal_eq, BitVec.toNat_ofNat]; omega

/-- APPEND leaves the data and, behind them, the CRC of the data and two zero bytes in the byte order (R53, R212). -/
theorem State.holds.afterAppend {s : State} {data : List Byte} (h : s.holds 0 data) (hlen : data.length = s.len.toNat)
    (i : BitVec 9) :
    (s.afterAppend data i).holds 0 (data ++ [(crcBytes s.par.order (crc16 s.par.crcFn (data ++ [0, 0]))).1,
      (crcBytes s.par.order (crc16 s.par.crcFn (data ++ [0, 0]))).2]) := by
  have hcleared : ({ s with buf := s.buf.setField data.length (0, 0) } : State).holds 0 data := h.before_setField rfl
  exact hcleared.setField (by rw [hlen]; rfl)

/-- APPEND changes no byte outside the field at `LEN` (R213). -/
theorem State.afterAppend_get_other {s : State} {data : List Byte} {i : BitVec 9} {a : Nat} (hlow : a ≠ s.len.toNat)
    (hhigh : a ≠ s.len.toNat + 1) : (s.afterAppend data i).buf.get a = s.buf.get a :=
  (Memory.get_setField_other _ _ hlow hhigh).trans (Memory.get_setField_other _ _ hlow hhigh)

/-- Settles O34: the run is `run_appendOperation`; what its last state holds is `State.holds.afterAppend` in the data and
the field, and `State.afterAppend_get_other` elsewhere. -/
theorem appendWholeOperation : Obligations.AppendWholeOperation := by
  intro s data hp hs hop hi hlen hsize hdata
  obtain ⟨i, hrun⟩ := run_appendOperation hp hs hop hi hlen hsize hdata
  have hres : (s.afterAppend data i).res.toNat = data.length + 2 := by rw [hlen]; exact toNat_appendTotal s.len
  have hother : ∀ a, a ≠ data.length → a ≠ data.length + 1 → (s.afterAppend data i).buf.get a = s.buf.get a := by
    rw [hlen]; exact fun _ => State.afterAppend_get_other
  exact ⟨_, hrun, rfl, rfl, hres, hdata.afterAppend hlen i, hother, rfl, rfl, rfl, rfl, rfl⟩

end Sys2Proof.Machine
end

section
/-! ## The host port: starting an operation, and the buffer (46_host_interface R230, R232, R234, R235) -/

namespace Sys2Proof.Machine

/-! ### `GO` (R230, R234, R235) -/

/-- The reserved codes, which select no operation, are those from 4 on (R90). -/
theorem Seq.first_eq_none_iff {op : BitVec 3} : Seq.first op = none ↔ 4 ≤ op.toNat := by
  revert op; decide

theorem exec_go_of_first {s : State} {q : Seq} (hb : s.busy = false) (hr : s.resetHeld = false)
    (hq : Seq.first s.op = some q) : exec .go s = .next (s.start q) :=
  execGo_next.mpr ⟨hb, q, hq, by rw [hr]; rfl⟩

theorem exec_go_of_held {s : State} (hb : s.busy = false) (hr : s.resetHeld = true) (hop : s.op.toNat < 4) :
    exec .go s = .next s := by
  obtain ⟨q, hq⟩ := Option.ne_none_iff_exists'.mp (mt Seq.first_eq_none_iff.mp hop.not_ge)
  exact execGo_next.mpr ⟨hb, q, hq, by rw [if_pos hr]⟩

theorem execReserved_busy {s : State} (op : BitVec 3) (len off : Byte) (hb : s.busy = true) :
    execReserved op len off s = .refused .hostWhileBusy := if_pos hb

theorem execReserved_idle {s : State} (op : BitVec 3) (len off : Byte) (hb : s.busy = false) :
    execReserved op len off s = .refused .reservedOp := by
  rw [execReserved, hb]; rfl

theorem execGo_busy {s : State} (hb : s.busy = true) : execGo s = .refused .hostWhileBusy := if_pos hb

theorem execGo_of_first_none {s : State} (hb : s.busy = false) (hq : Seq.first s.op = none) :
    execGo s = execReserved s.op s.len s.off s := by
  rw [execGo, hb, hq]; rfl

/-- Settles O41: each of the codes 0 to 3 has the first step R230 names, and `GO` goes there unless reset is held. -/
theorem goStartsOperation : Obligations.GoStartsOperation := by
  intro s hb
  refine ⟨fun hr => ⟨fun hop => ?_, fun hop => ?_, fun hop => ?_, fun hop => ?_⟩, exec_go_of_held hb⟩
  all_goals exact exec_go_of_first hb hr (by rw [hop]; rfl)

/-- Settles O42: a reserved code selects no first step, so `GO` ends in `execReserved`, as the reserved command does. -/
theorem goRefusedWhenBusyOrReserved : Obligations.GoRefusedWhenBusyOrReserved := by
  intro s op len off
  refine ⟨execGo_busy, fun hb hop => ?_, execReserved_idle op len off, execReserved_busy op len off⟩
  calc exec .go s = execReserved s.op s.len s.off s := execGo_of_first_none hb (Seq.first_eq_none_iff.mpr hop)
    _ = .refused .reservedOp := execReserved_idle _ _ _ hb

/-! ### Reads and writes of `BUF` while idle (R232) -/

theorem hostAccess_writeBuf_released {s : State} {i : Byte} (v : Byte) (hb : s.busy = false)
    (hi : i.toNat < s.par.bufSize.val) (hr : s.resetHeld = false) :
    hostAccess (.writeBuf i v) s = .next { s with buf := s.buf.set i.toNat v } := by
  simp [hostAccess, hb, hi, hr]

/-- While reset is asserted the byte stays without a value (log 26). -/
theorem hostAccess_writeBuf_held {s : State} {i : Byte} (v : Byte) (hb : s.busy = false)
    (hi : i.toNat < s.par.bufSize.val) (hr : s.resetHeld = true) : hostAccess (.writeBuf i v) s = .next s := by
  simp [hostAccess, hb, hi, hr]

theorem hostAccess_readBuf_some {s : State} {i b : Byte} (hb : s.busy = false) (hi : i.toNat < s.par.bufSize.val)
    (hget : s.buf.get i.toNat = some b) : hostAccess (.readBuf i) s = .next (s.observe (zext16 b)) := by
  simp [hostAccess, hb, hi, hget]

/-- Nothing has written the byte since reset (R252). -/
theorem hostAccess_readBuf_none {s : State} {i : Byte} (hb : s.busy = false) (hi : i.toNat < s.par.bufSize.val)
    (hget : s.buf.get i.toNat = none) : hostAccess (.readBuf i) s = .fault .unwrittenRead := by
  simp [hostAccess, hb, hi, hget]

/-- `BUF` has no byte at or beyond `BUF_SIZE`. -/
theorem hostAccess_buf_out_of_bounds {s : State} {i : Byte} (v : Byte) (hb : s.busy = false)
    (hi : s.par.bufSize.val ≤ i.toNat) :
    hostAccess (.writeBuf i v) s = .refused .hostBufBounds ∧ hostAccess (.readBuf i) s = .refused .hostBufBounds := by
  simp [hostAccess, hb, hi.not_gt]

/-- Settles O45: the accesses by index, level of reset and content of the byte; a write is `Memory.set` at its index. -/
theorem hostBufferWhileIdle : Obligations.HostBufferWhileIdle := by
  intro s i v hb
  refine ⟨fun hi => ⟨fun hr => ?_, hostAccess_writeBuf_held v hb hi, fun b hget => ?_, hostAccess_readBuf_none hb hi⟩,
    hostAccess_buf_out_of_bounds v hb⟩
  · exact ⟨_, hostAccess_writeBuf_released v hb hi hr, rfl, Memory.get_set_same _ _ _,
      fun _ ha => Memory.get_set_other _ _ ha⟩
  · rw [BitVec.ofNat_toNat]
    exact hostAccess_readBuf_some hb hi hget

end Sys2Proof.Machine
end
